-- ==== Sys2Proof/Word.lean ====
section
/-! DEFINITION. The one word of the hardware: a byte (spec/00_scope.md R9).

The protocol has no number wider than one byte on the wire (spec/20_memory.md R59), so there is no
other word type; the counter `n` is an unbounded natural number with its bound as an invariant
(spec/92_eei_decisions.md D20). -/

namespace Sys2Proof

/-- A byte, an integer `0..255` of 8 bits, bit 7 the most significant (R9). -/
abbrev Byte := BitVec 8

end Sys2Proof
end

