-- ==== Sys2Proof/Config.lean ====
section
/-! DEFINITION. The parameters of spec/00_scope.md table R6, the outcome sets of the ports, and the free
values: the environment's choices, which nothing in Lean can evaluate. The two opcode bytes stand at the
head of Decode.lean. -/

namespace Sys2Proof

/-! ### Parameters -/

/-- The values of `INVALID_OPCODE_POLICY` (R6): what the Receiver does with an invalid opcode. -/
inductive Policy
  | drop
  | halt
  deriving DecidableEq, Repr, Inhabited

/-- The parameters of table R6. They are configuration, fixed for the life of the hardware: no step
changes them. Durations are in any one unit of time. -/
structure Params where
  /-- `FRAME_SIZE` as DFC is configured, at least 1. -/
  frameSize : Nat
  /-- `INVALID_OPCODE_POLICY`. -/
  policy : Policy
  /-- `FRAME_SIZE` as the host is configured. The two must be equal (R6, R233); they are two fields so
  that the mismatch of R237 can be written down. -/
  hostFrameSize : Nat
  /-- `GUARD_DELAY`, host only (R164). -/
  guardDelay : Nat
  /-- `TARGET_INTERVAL`, host only: a duration or none (R168). -/
  targetInterval : Option Nat
  /-- `HOST_READ_TIMEOUT`, host only. No rule depends on its value (U5), so no step reads it: a host read
  may answer `Timeout` at any poll. -/
  hostReadTimeout : Nat
  /-- `ACK_DEADLINE`, host only: a duration, or none in the reference behaviour (R6, R172, U2). What the
  Sender does when a deadline has passed is assumption 15. -/
  ackDeadline : Option Nat
  deriving DecidableEq, Repr

/-- `FRAME_SIZE - 1` of this hardware. The spec leaves `FRAME_SIZE >= 1` open (R6, D16): no value. -/
opaque Config.frameSizePred : Nat

/-- `FRAME_SIZE` of this hardware, at least 1 and otherwise unknown (R6). -/
def Config.frameSize : Nat := Config.frameSizePred + 1

/-- `INVALID_OPCODE_POLICY` of this hardware, open (R6, U1). -/
opaque Config.policy : Policy

/-- `GUARD_DELAY` of this host, open (R6, U4). -/
opaque Config.guardDelay : Nat

/-- `TARGET_INTERVAL - 1` of this host where it has an interval, open (R6, U6). -/
opaque Config.targetIntervalPred : Option Nat

/-- `HOST_READ_TIMEOUT - 1` of this host, open (R6, U5). -/
opaque Config.hostReadTimeoutPred : Nat

/-- `ACK_DEADLINE` of this host: none, the value of the reference behaviour (R6, R172). -/
def Config.ackDeadline : Option Nat := none

/-- The parameters of this hardware. Both ends have the same `FRAME_SIZE` (R6). -/
def Config.hardware : Params where
  frameSize := Config.frameSize
  policy := Config.policy
  hostFrameSize := Config.frameSize
  guardDelay := Config.guardDelay
  targetInterval := Config.targetIntervalPred.map (· + 1)
  hostReadTimeout := Config.hostReadTimeoutPred + 1
  ackDeadline := Config.ackDeadline

/-! ### Outcomes of the port transactions (R53, R56, R58) -/

/-- The outcome of `RxRead(cap)` (R53); at the host's end `noData` is called `Timeout` (42_host_sender.md). -/
inductive RxOutcome
  /-- `NoData`: no data yet, nothing consumed. -/
  | noData
  /-- `Data(bs)`: the first bytes of the queue, removed from it; `bs` may be empty. -/
  | data (bs : List Byte)
  /-- `HardError`. How many bytes of the queue the failed read consumed is unspecified (U11), so the
  outcome carries the number. -/
  | hardError (consumed : Nat)
  deriving DecidableEq, Repr

/-- The outcome of `TxWrite(bs)` (R56). -/
inductive TxOutcome
  /-- `Accepted(k)`: the first `k` bytes were taken. -/
  | accepted (k : Nat)
  /-- `HardError`: a transport fault. -/
  | hardError
  deriving DecidableEq, Repr, Inhabited

/-- The outcome of `SinkApply(bs)` (R58). -/
inductive SinkOutcome
  | ok
  | fail
  deriving DecidableEq, Repr, Inhabited

/-! ### Free values: what the environment chooses when nothing is scripted

Each is an uninterpreted function of `State.tick`, a counter that every step advances, so that every
step draws fresh choices. -/

/-- What the Transport chooses to do with a read (R54): nothing yet, deliver up to `k` bytes, or fail. -/
inductive RxChoice
  | noData
  | deliver (k : Nat)
  | hardError (consumed : Nat)
  deriving DecidableEq, Repr, Inhabited

/-- What happens next (R174: steps of different agents interleave in any order). -/
inductive Turn
  /-- The Receiver takes a step. -/
  | receiver
  /-- The Sender takes a step. -/
  | sender
  /-- A host other than the Sender Pump puts bytes on `h2d` (R173, "assumed never"). -/
  | inject (bs : List Byte)
  /-- Time passes (U17). -/
  | elapse (d : Nat)
  /-- The reset event `RST` (R230). -/
  | rst
  deriving DecidableEq, Repr, Inhabited

/-- Whose turn it is. -/
opaque Config.freeTurn : Nat → Turn

/-- The Transport's answer to a read, at either end (U15). -/
opaque Config.freeRx : Nat → RxChoice

/-- The Transport's answer to a write, at either end (U15). -/
opaque Config.freeTx : Nat → TxOutcome

/-- The display sink's answer (U14). -/
opaque Config.freeSink : Nat → SinkOutcome

end Sys2Proof
end

