-- ==== Sys2Proof/Syntax.lean ====
section
/-! DEFINITION. The instruction set: the two wire messages, one constructor per row of
spec/opcode_table.json (spec/30_encoding.md R81). -/

namespace Sys2Proof

/-- The two opcodes. A constructor has no argument because the opcode byte alone selects the
instruction (R81; the table gives neither row a field) and FULLDATA has no operand at dispatch: its
`FRAME_SIZE` payload bytes follow on the wire and are collected by later steps (R123, R126). The
message with its payload is the `Signal` of WellFormed.lean. -/
inductive Instr
  /-- `FULLDATA`, opcode byte `0x03`, format `OP_PAYLOAD` (R83, R123). -/
  | fulldata
  /-- `COMMACK`, opcode byte `0x04`, format `OP` (R82, R124). -/
  | commack
  deriving DecidableEq, Repr

end Sys2Proof
end

