-- ==== Sys2Proof/WellFormed.lean ====
section
/-! DEFINITION. Signals, well formed by their type (spec/40_codec.md R100), and the checks that a parameter
set and an instruction with its operand bytes are well formed. -/

namespace Sys2Proof

/-- A frame: a sequence of exactly `F` bytes, the length being part of the value (R100). -/
abbrev Frame (F : Nat) := { p : List Byte // p.length = F }

/-- A Signal of a link with `FRAME_SIZE = F`, the only protocol-level value: a closed union with exactly
two variants (R100). A FullData always has data and a CommACK never does: no other value can be built
(R101). -/
inductive Signal (F : Nat)
  /-- One complete display frame. -/
  | fullData (payload : Frame F)
  /-- A zero-length acknowledgement. -/
  | commAck
  deriving DecidableEq, Repr

/-- `FRAME_SIZE >= 1` at both ends; a target interval and the host's read timeout are durations `> 0`
(table R6). -/
def Params.wf (c : Params) : Bool :=
  decide (1 ≤ c.frameSize) && decide (1 ≤ c.hostFrameSize) && decide (1 ≤ c.hostReadTimeout) &&
    c.targetInterval.all fun d => decide (1 ≤ d)

/-- `FULLDATA b0 .. b(FRAME_SIZE-1)` is well formed only with exactly `FRAME_SIZE` operand bytes;
`COMMACK` has no operand (R80, R90). -/
def Instr.wf (F : Nat) : Instr → List Byte → Bool
  | .fulldata, ops => ops.length == F
  | .commack, ops => ops.isEmpty

/-- The opcode of a Signal's message (R110, L6). -/
def Signal.instr {F : Nat} : Signal F → Instr
  | .fullData _ => .fulldata
  | .commAck => .commack

/-- The operand bytes of a Signal's message (R85). -/
def Signal.operands {F : Nat} : Signal F → List Byte
  | .fullData p => p.1
  | .commAck => []

end Sys2Proof
end

