-- ==== Sys2Proof/Decode.lean ====
section
/-! DEFINITION. The Frame Codec (spec/40_codec.md): `decode`, `encode`, `dispatch`, construction of a
FullData, and the decoder of a byte stream. It is pure and stateless (R102, R105). -/

namespace Sys2Proof

/-! ### Constants of the protocol -/

/-- The opcode byte of FullData (R7, R81). Every rule that needs it uses this name (U9). -/
def Config.opFullData : Byte := 0x03#8

/-- The opcode byte of CommACK (R7, R81). -/
def Config.opCommAck : Byte := 0x04#8

/-! ### decode -/

/-- The two errors of `decode` (R105). -/
inductive DecodeError
  /-- `InvalidOpcode`: the opcode byte is neither `0x03` nor `0x04`. -/
  | invalidOpcode
  /-- `MissingData`: opcode `0x03` with no payload or one shorter than `FRAME_SIZE`. -/
  | missingData
  deriving DecidableEq, Repr

/-- What a call of `decode` answers (R105). -/
inductive DecodeResult (F : Nat)
  | ok (s : Signal F)
  | err (e : DecodeError)
  /-- The call is outside the domain of `decode` (a payload longer than `FRAME_SIZE`): it has no
  meaning and is refused (R105, U7). -/
  | outsideDomain
  deriving DecidableEq, Repr

/-- `decode(opcode_byte, optional_payload)` (R105 to R109). The opcode is examined first: an invalid
opcode is `InvalidOpcode` whatever the payload is (D28). A payload given with `0x04` is ignored (D15). -/
def decode (F : Nat) (b : Byte) (payload : Option (List Byte)) : DecodeResult F :=
  if b = Config.opFullData then
    match payload with
    | none => .err .missingData
    | some bs =>
      if bs.length < F then .err .missingData
      else if h : bs.length = F then .ok (.fullData ⟨bs, h⟩)
      else .outsideDomain
  else if b = Config.opCommAck then
    match payload with
    | none => .ok .commAck
    | some bs => if bs.length ≤ F then .ok .commAck else .outsideDomain
  else .err .invalidOpcode

/-- The three-way answer the Receiver needs when it holds an opcode byte and no payload (R111). -/
inductive DispatchResult (F : Nat)
  /-- The byte is a whole message. -/
  | complete (s : Signal F)
  /-- The byte is FullData's opcode. -/
  | needsPayload
  /-- The byte is no opcode. -/
  | invalid
  deriving DecidableEq, Repr

/-- `dispatch(b)`: the result of `decode(b, None)`, renamed (R111). The last arm cannot arise: `decode`
of no payload is never outside the domain (`dispatch_cases` in Laws/Decode.lean). -/
def dispatch (F : Nat) (b : Byte) : DispatchResult F :=
  match decode F b none with
  | .ok s => .complete s
  | .err .missingData => .needsPayload
  | .err .invalidOpcode => .invalid
  | .outsideDomain => .invalid

/-- The instruction an opcode byte selects, none for the 254 invalid bytes (R81, R86). -/
def decodeOpcode (F : Nat) (b : Byte) : Option Instr :=
  match dispatch F b with
  | .needsPayload => some .fulldata
  | .complete _ => some .commack
  | .invalid => none

/-- `payload_len`: the payload length of a message, a function of its opcode alone (R87, R111). -/
def payloadLen (F : Nat) : Instr → Nat
  | .fulldata => F
  | .commack => 0

/-! ### Construction -/

/-- The failure of a construction, `BadLength` (R101; the name is the spec's own). -/
inductive BuildError
  | badLength
  deriving DecidableEq, Repr

/-- `mkFullData(p)`: `FullData p` when `len(p) = FRAME_SIZE`, and fails otherwise: the check that makes an
untyped sequence a frame (R101). -/
def mkFullData (F : Nat) (p : List Byte) : Except BuildError (Signal F) :=
  if h : p.length = F then .ok (.fullData ⟨p, h⟩) else .error .badLength

/-- `mkCommACK()` always succeeds (R101). -/
def mkCommAck {F : Nat} : Signal F := .commAck

/-! ### encode -/

/-- The opcode byte of an instruction, from the opcode map (R81). -/
def encodeOpcode : Instr → Byte
  | .fulldata => Config.opFullData
  | .commack => Config.opCommAck

/-- The message of an instruction and its operand bytes (R80): the opcode byte, then the payload bytes
in order. -/
def encodeInstr (i : Instr) (ops : List Byte) : List Byte := encodeOpcode i :: ops

/-- `encode(signal)`: the opcode byte and the payload where there is one; total (R102 to R104). -/
def encode {F : Nat} : Signal F → Byte × Option (List Byte)
  | .fullData p => (Config.opFullData, some p.1)
  | .commAck => (Config.opCommAck, none)

/-- `wire(s)`: the bytes of the Signal's message on the wire (R102). -/
def wire {F : Nat} (s : Signal F) : List Byte := (encode s).1 :: (encode s).2.getD []

/-! ### The byte stream -/

/-- Why the first message of a byte stream cannot be read. -/
inductive StreamError
  /-- There is no opcode byte. -/
  | noOpcode
  /-- The Codec's answer for the opcode byte and the bytes that follow it. -/
  | rejected (e : DecodeError)
  deriving DecidableEq, Repr

/-- The first message of a byte stream that starts at a frame boundary, and the bytes after it. The
length is a function of the opcode and `FRAME_SIZE` alone (R87): a FullData takes the next `FRAME_SIZE`
bytes, unexamined (R89), and a CommACK takes none. -/
def decodeMessage (F : Nat) : List Byte → Except StreamError (Signal F × List Byte)
  | [] => .error .noOpcode
  | b :: rest =>
    match dispatch F b with
    | .complete s => .ok (s, rest)
    | .needsPayload =>
      match decode F b (some (rest.take F)) with
      | .ok s => .ok (s, rest.drop F)
      | .err e => .error (.rejected e)
      | .outsideDomain => .error (.rejected .missingData)
    | .invalid => .error (.rejected .invalidOpcode)

/-- All messages of a byte stream, at most `fuel` of them: a stream is a concatenation of messages with
nothing between them (R88). -/
def decodeStreamFuel (F : Nat) : Nat → List Byte → Except StreamError (List (Signal F))
  | _, [] => .ok []
  | 0, _ :: _ => .error .noOpcode
  | fuel + 1, b :: rest =>
    match decodeMessage F (b :: rest) with
    | .ok (s, more) =>
      match decodeStreamFuel F fuel more with
      | .ok ss => .ok (s :: ss)
      | .error e => .error e
    | .error e => .error e

/-- All messages of a byte stream. Every message takes at least one byte, so the stream's length is
fuel enough. -/
def decodeStream (F : Nat) (bs : List Byte) : Except StreamError (List (Signal F)) :=
  decodeStreamFuel F bs.length bs

/-! ### The opcode table's words -/

/-- Byte `k` of an instruction whose bits are `w`, bit 0 the least significant bit of the first byte. -/
def tableByte (w k : Nat) : Byte := BitVec.ofNat 8 (w >>> (8 * k))

/-- The payload bytes of a table word from byte `k` on: `count` of them. -/
def tableBytes (w : Nat) : Nat → Nat → List Byte
  | _, 0 => []
  | k, count + 1 => tableByte w k :: tableBytes w (k + 1) count

/-- The bytes of the message whose first `nbits` bits are `w` and whose further bits are zero: the
opcode byte and, for FULLDATA, `FRAME_SIZE` payload bytes. -/
def tableMessage (F nbits w : Nat) : List Byte :=
  let v := w % 2 ^ nbits
  let b := tableByte v 0
  match decodeOpcode F b with
  | some i => b :: tableBytes v 1 (payloadLen F i)
  | none => [b]

/-- The instruction the decoder reads from a row of the opcode table. All eight bits of the first byte
take part (R81), and the byte selects the instruction alone. -/
def decodeTableWord (nbits w : Nat) : Option Instr :=
  decodeOpcode Config.frameSize (tableByte (w % 2 ^ nbits) 0)

end Sys2Proof
end

