-- ==== Sys2Proof/Machine/State.lean ====
section
/-! DEFINITION. The state of the machine as plain data: DFC's six fields (spec/10_state.md R20), the
environment of the closed loop (spec/42_host_sender.md R174), what the environment does next, and the
observation record. And why a step can stop. -/

namespace Sys2Proof.Machine

/-! ### DFC -/

/-- `st`, the control state (R21). -/
inductive St
  | idle
  /-- `Recv`, the document's `ReceivingPayload`. -/
  | recv
  | applying
  | acking
  | halted
  deriving DecidableEq, Repr

/-- `halt_cause`: the fault codes the Receiver can raise (R24). -/
inductive HaltCause
  | none
  | invalidOpcode
  | rxFault
  | txFault
  | sinkFault
  deriving DecidableEq, Repr

/-- All the faults of table R191, the Codec's and the Sender's among them. -/
inductive FaultCode
  | none
  | invalidOpcode
  | missingData
  | rxFault
  | txFault
  | sinkFault
  | protocolViolation
  | sourceFault
  deriving DecidableEq, Repr

/-- The payload buffer's contents: the written elements as (offset, byte) pairs, offsets strictly
rising. An offset that is not listed is unwritten and has no value (R23, R33). -/
abbrev Memory := List Host.Cell

/-- The state record of DFC: exactly six fields (R20). -/
structure Dfc where
  /-- The control state (R21). -/
  st : St
  /-- The byte counter, `0 .. FRAME_SIZE` (R22). -/
  n : Nat
  /-- The payload buffer (R23). -/
  buf : Memory
  /-- Why DFC halted (R24). -/
  haltCause : HaltCause
  /-- Sticky: an invalid opcode byte was read in `Idle` (R25). -/
  invFlag : Bool
  /-- The most recent invalid opcode byte (R26). -/
  faultByte : Byte
  deriving DecidableEq, Repr

/-- The reset values of table R33; `buf` is unwritten. -/
def Dfc.reset : Dfc where
  st := .idle
  n := 0
  buf := []
  haltCause := .none
  invFlag := false
  faultByte := 0x00#8

/-! ### The observation record -/

/-- The events of the observation trace (R32). -/
inductive TraceEvent
  /-- An opcode byte was read in `Idle`. -/
  | fetch (b : Byte)
  /-- That byte was invalid and the policy is `drop`. -/
  | dropped (b : Byte)
  /-- Payload bytes were stored at an offset. -/
  | stored (off : Nat) (bs : List Byte)
  /-- The sink accepted the frame. -/
  | apply (bs : List Byte)
  /-- The byte `0x04` was accepted by `TX`. -/
  | ackSent
  /-- The halt entry was taken. -/
  | halt (cause : HaltCause) (info : Option Byte)
  deriving DecidableEq, Repr

/-- STATUS, the read-only observation record (R31). -/
structure Status where
  st : St
  n : Nat
  haltCause : HaltCause
  invFlag : Bool
  faultByte : Byte
  deriving DecidableEq, Repr

/-! ### The Sender Pump and the frame source -/

/-- Where a transfer failed (R170: "which step failed"). -/
inductive FailPoint
  /-- The frame source, before step 1 (R162). -/
  | source
  | step1
  | step3
  | step4
  | step5
  deriving DecidableEq, Repr

/-- Why a transfer failed. -/
inductive FailCause
  /-- A `HardError` of the Transport at the host's end (R163, R165, R166). -/
  | transportFault
  /-- The byte read where an ack was expected is not `0x04` (R167). -/
  | protocolViolation
  /-- The frame source failed (R162). -/
  | sourceFault
  /-- No ack came within `ACK_DEADLINE` (R172). DESIGN CHOICE, assumption 15: the spec names no cause for
  it. -/
  | ackDeadline
  deriving DecidableEq, Repr

/-- Where the Sender stands in the six steps of a frame (R163 to R168), with its outcome (R161). -/
inductive Phase
  /-- Ready for the next frame: the frame source is asked for it (R162). -/
  | ready
  /-- Step 1: write the opcode byte (R163). -/
  | writeOpcode
  /-- Step 2: the guard delay, over at a wall time (R164). -/
  | guardDelay (wake : Nat)
  /-- Step 3: write the payload, `m` bytes accepted so far (R165). -/
  | writePayload (m : Nat)
  /-- Step 4: read one opcode byte (R166). -/
  | awaitAck
  /-- Step 5: judge the byte that was read (R167). -/
  | checkAck (b : Byte)
  /-- Step 6: measure the elapsed time (R168). -/
  | pace
  /-- Step 6: sleep until a wall time (R168). -/
  | pacingSleep (wake : Nat)
  /-- `Done`: the frame source is exhausted. -/
  | done
  /-- `Failed(j, step, cause)`, `j` being `Sender.j` (R170). -/
  | failed (point : FailPoint) (cause : FailCause)
  deriving DecidableEq, Repr

/-- The state of the Sender (R161). None of it is state of DFC. -/
structure Sender where
  /-- The index of the current frame. -/
  j : Nat
  /-- `p_j`, the payload of the current frame. -/
  payload : List Byte
  phase : Phase
  /-- The wall time at which step 1 began. -/
  t0 : Nat
  /-- The wall time at which step 4 began, from which `ACK_DEADLINE` counts. The model's own (assumption
  15): with no deadline nothing reads it. -/
  waitSince : Nat
  deriving DecidableEq, Repr

/-- The Sender before its first frame. -/
def Sender.start : Sender where
  j := 0
  payload := []
  phase := .ready
  t0 := 0
  waitSince := 0

/-- What the frame source yields for a frame (R162). -/
inductive SourceItem
  | frame (p : List Byte)
  /-- It fails while decoding or decompressing. -/
  | failure
  deriving DecidableEq, Repr

/-! ### What happens next -/

/-- One thing that happens between two states of the system: a step of an agent together with the
outcome the environment gives to its port transaction (R91, R174), or an input from outside. A reset or
restart of the host (R236; "assumed never" by R173) has no event, since no rule gives the Sender's state
after it: DESIGN CHOICE, assumption 28. What DFC sees of it is `inject`. -/
inductive Event
  /-- The Receiver's `RxRead` is answered. -/
  | rx (o : RxOutcome)
  /-- The Receiver's `TxWrite` is answered. -/
  | tx (o : TxOutcome)
  /-- The Receiver's `SinkApply` is answered. -/
  | sink (o : SinkOutcome)
  /-- The Sender's `RxRead` is answered. -/
  | hostRx (o : RxOutcome)
  /-- The Sender's `TxWrite` is answered. -/
  | hostTx (o : TxOutcome)
  /-- The Sender takes a step that has no port transaction. -/
  | hostLocal
  /-- Bytes that are not the Sender Pump's appear on `h2d` (R173, "assumed never"). -/
  | inject (bs : List Byte)
  /-- Time passes (U17). -/
  | elapse (d : Nat)
  /-- `RST` (R230). -/
  | rst
  deriving DecidableEq, Repr

/-! ### The state -/

/-- The state of the system: DFC, the two queues of the Transport, the Sender, the frame source (R174),
and what the model adds to run it: the parameters, the trace, the wall clock, the events to come, and
the counter that indexes the free values. -/
structure State where
  /-- The parameters of table R6. No step changes them. -/
  cfg : Params
  /-- DFC itself (R20). -/
  dfc : Dfc
  /-- The observation trace, oldest event first (R32). -/
  trace : List TraceEvent
  /-- The bytes from the host that DFC has not read, oldest first (R34, R52). -/
  h2d : List Byte
  /-- The bytes from DFC that the host has not read, oldest first (R34, R52). -/
  d2h : List Byte
  /-- The Sender Pump (R161). -/
  sender : Sender
  /-- What the frame source has still to yield (R162). -/
  source : List SourceItem
  /-- The host's wall clock (R163, R168). DFC does not read it. -/
  now : Nat
  /-- What happens next, soonest first. When it is empty the environment chooses freely. -/
  events : List Event
  /-- The number of steps taken, the index of the free values. -/
  tick : Nat
  deriving DecidableEq, Repr

/-- The machine right after reset, with nothing on the line and no frame to send. -/
def State.reset : State where
  cfg := Config.hardware
  dfc := Dfc.reset
  trace := []
  h2d := []
  d2h := []
  sender := Sender.start
  source := []
  now := 0
  events := []
  tick := 0

/-! ### Why a step can stop -/

/-- Why the model stops where no run from reset can be. (DFC's own fatal faults do not stop the model:
they are the halt entry, a next state with `st = Halted`, R196.) -/
inductive Fault
  /-- Raised by the sink hand-over when an element of `buf` is unwritten (R33). Safe; unreachable by I5. -/
  | unwrittenRead
  /-- Raised by the payload read when `n >= FRAME_SIZE`, a read of capacity 0 (R53, R121). Safe;
  unreachable by I2. -/
  | zeroCapacityRead
  deriving DecidableEq, Repr

/-- Why the model gives a step no meaning. -/
inductive Refusal
  /-- Raised by an arm of `exec` whose instruction has no meaning yet. Safe. No arm raises it. -/
  | notModelled (mnemonic : String)
  /-- Raised by a step whose scripted event is not an outcome of the transaction asked for: the wrong
  port, more bytes than the capacity, or bytes that are not the first of the queue (R53, R54, R56, R91).
  Safe: no hardware does it. -/
  | notAnOutcome
  /-- Raised by the Sender when the frame source yields a frame of the wrong length, which fails to
  construct (R101, R162). Safe: the frame source's contract excludes it. -/
  | badSourceFrame
  deriving DecidableEq, Repr

end Sys2Proof.Machine
end

