-- ==== Sys2Proof/Machine/Ops.lean ====
section
/-! DEFINITION. The operations the meanings share: the payload buffer, the trace, the halt entry (the one
exception DFC has) and reset (the one way out of it). -/

namespace Sys2Proof.Machine

/-! ### The payload buffer (spec/20_memory.md R51) -/

/-- The canonical form of the buffer's contents: offsets strictly rising. -/
abbrev Memory.wf (m : Memory) : Prop := m.Pairwise fun c d => c.1 < d.1

/-- One element: its byte, or none where it is unwritten (R23). -/
def Memory.read : Memory → Nat → Option Byte
  | [], _ => none
  | c :: m, a => if c.1 = a then some c.2 else Memory.read m a

/-- `buf[a] <- b`. -/
def Memory.write : Memory → Nat → Byte → Memory
  | [], a, b => [(a, b)]
  | c :: m, a, b =>
    if a < c.1 then (a, b) :: c :: m
    else if a = c.1 then (a, b) :: m
    else c :: Memory.write m a b

/-- `MemWrite(off, len(bs), bs)`: byte `i` of `bs` to `buf[off + i]` (R10, R59). -/
def Memory.writeBytes (m : Memory) (off : Nat) : List Byte → Memory
  | [] => m
  | b :: bs => Memory.writeBytes (Memory.write m off b) (off + 1) bs

/-- `MemRead(off, k)`: the `k` bytes from `off` on, none where one of them is unwritten (R10, R33). -/
def Memory.readBytes (m : Memory) (off : Nat) : Nat → Option (List Byte)
  | 0 => some []
  | k + 1 =>
    match Memory.read m off, Memory.readBytes m (off + 1) k with
    | some b, some bs => some (b :: bs)
    | _, _ => none

/-- `MemRead(0, FRAME_SIZE)`, the whole of the buffer, `buf[0]` first (R51, R58). -/
def State.frame (s : State) : Option (List Byte) := Memory.readBytes s.dfc.buf 0 s.cfg.frameSize

/-- `CNT_W = ceil(log2(FRAME_SIZE + 1))`, the number of bits of the counter `n` (R6, D20). -/
def cntW (frameSize : Nat) : Nat := Nat.clog 2 (frameSize + 1)

/-! ### Updates of the state -/

/-- `st <- v` (R10). -/
def State.setSt (s : State) (v : St) : State := { s with dfc := { s.dfc with st := v } }

/-- `n <- v` (R10). -/
def State.setN (s : State) (v : Nat) : State := { s with dfc := { s.dfc with n := v } }

/-- `MemWrite(off, len(bs), bs)` on the state (R10). -/
def State.writeBuf (s : State) (off : Nat) (bs : List Byte) : State :=
  { s with dfc := { s.dfc with buf := Memory.writeBytes s.dfc.buf off bs } }

/-- `halt_cause <- c` (R24). -/
def State.setHaltCause (s : State) (c : HaltCause) : State :=
  { s with dfc := { s.dfc with haltCause := c } }

/-- `inv_flag <- 1 ; fault_byte <- b`: the two are written together (R26, R125). -/
def State.recordInvalid (s : State) (b : Byte) : State :=
  { s with dfc := { s.dfc with invFlag := true, faultByte := b } }

/-- `emit E` (R10, R32). -/
def State.emit (s : State) (e : TraceEvent) : State := { s with trace := s.trace ++ [e] }

/-- The event of this step is over: the next one is due, with fresh free values. -/
def State.advance (s : State) : State := { s with events := s.events.tail, tick := s.tick + 1 }

/-- The first `k` bytes of `h2d` leave the queue (R52, R53). -/
def State.popH2d (s : State) (k : Nat) : State := { s with h2d := s.h2d.drop k }

/-- Bytes join the end of `h2d` (R52, R56). -/
def State.pushH2d (s : State) (bs : List Byte) : State := { s with h2d := s.h2d ++ bs }

/-- The first `k` bytes of `d2h` leave the queue (R52, R53). -/
def State.popD2h (s : State) (k : Nat) : State := { s with d2h := s.d2h.drop k }

/-- Bytes join the end of `d2h` (R52, R56). -/
def State.pushD2h (s : State) (bs : List Byte) : State := { s with d2h := s.d2h ++ bs }

/-- Time passes on the host's wall clock (U17). -/
def State.passTime (s : State) (d : Nat) : State := { s with now := s.now + d }

/-! ### The halt entry and reset -/

/-- `raise Halt(cause, info)` (spec/60_exceptions.md R196), the only trap: `halt_cause`, and for an
invalid opcode `inv_flag` and `fault_byte`, then `st <- Halted`. `n` and `buf` keep their values, no
byte is written to `TX`, and there is no handler. -/
def State.raiseHalt (s : State) (cause : HaltCause) (info : Option Byte) : State :=
  let t := s.setHaltCause cause
  let u := match cause, info with
    | .invalidOpcode, some b => t.recordInvalid b
    | _, _ => t
  (u.setSt .halted).emit (.halt cause info)

/-- `RST` (spec/70_reset_and_hazards.md R230, R231): every field of DFC takes its reset value and the
trace is empty. The Transport is not flushed (R234), and the host is not touched. -/
def State.rst (s : State) : State := { s with dfc := Dfc.reset, trace := [] }

end Sys2Proof.Machine
end

