-- ==== Sys2Proof/Machine/Flags.lean ====
section
/-! DEFINITION. The one flag, `inv_flag`, with the byte beside it (spec/10_state.md R25, R26): the only
thing that sets it is an invalid opcode byte read in `Idle` (R125), and no arithmetic sets a flag (R137).
And STATUS, through which alone it is read, with the numbers of its fields. -/

namespace Sys2Proof.Machine

/-! ### The flag -/

/-- An invalid opcode byte read in `Idle` (spec/41_receiver.md R125). The flag and the byte are recorded
under both policies; then the byte is dropped, or DFC halts. -/
def invalidOpcode (b : Byte) (s : State) : State :=
  let t := s.recordInvalid b
  match s.cfg.policy with
  | .drop => t.emit (.dropped b)
  | .halt => t.raiseHalt .invalidOpcode (some b)

/-! ### STATUS and the fault codes -/

/-- Reading STATUS: a view of the state with no side effect (R31). -/
def Dfc.status (d : Dfc) : Status where
  st := d.st
  n := d.n
  haltCause := d.haltCause
  invFlag := d.invFlag
  faultByte := d.faultByte

/-- The numeric encoding of `st` (R21, D12), for STATUS only. -/
def St.code : St → Nat
  | .idle => 0
  | .recv => 1
  | .applying => 2
  | .acking => 3
  | .halted => 4

/-- The numbers of table R191. -/
def FaultCode.code : FaultCode → Nat
  | .none => 0
  | .invalidOpcode => 1
  | .missingData => 2
  | .rxFault => 3
  | .txFault => 4
  | .sinkFault => 5
  | .protocolViolation => 6
  | .sourceFault => 7

/-- The fault a value of `halt_cause` stands for (R24, R191). -/
def HaltCause.fault : HaltCause → FaultCode
  | .none => .none
  | .invalidOpcode => .invalidOpcode
  | .rxFault => .rxFault
  | .txFault => .txFault
  | .sinkFault => .sinkFault

/-- The fault code of an error the Codec returns (R191). -/
def decodeErrorFault : DecodeError → FaultCode
  | .invalidOpcode => .invalidOpcode
  | .missingData => .missingData

/-- The fault code of a failed transfer; table R191 numbers neither a transport fault of the host nor a
deadline that has passed (R191). -/
def failCauseFault : FailCause → Option FaultCode
  | .transportFault => none
  | .protocolViolation => some .protocolViolation
  | .sourceFault => some .sourceFault
  | .ackDeadline => none

end Sys2Proof.Machine
end

