-- ==== Sys2Proof/Machine/Operands.lean ====
section
/-! DEFINITION. The three ports (spec/20_memory.md R53, R56, R58): which transaction is asked for, which
event answers it, and what the answer moves between DFC and the environment. A message's operand, the
payload, comes only through these. -/

namespace Sys2Proof.Machine

/-! ### Which transaction is asked for -/

/-- The port transaction the Receiver asks for (R121). -/
inductive Request
  | rxRead (cap : Nat)
  /-- The frame, none where an element is unwritten (unreachable by I5). -/
  | sinkApply (frame : Option (List Byte))
  | txWrite (bs : List Byte)
  deriving DecidableEq, Repr

/-- `FRAME_SIZE - n`, the capacity of a payload read (R61, R137). -/
def State.room (s : State) : Nat := s.cfg.frameSize - s.dfc.n

/-- The acknowledgement on the wire: the opcode byte of `encode(CommACK)` alone (R128). -/
def ackBytes (F : Nat) : List Byte := wire (F := F) .commAck

/-- `request(S)` (R121). -/
def State.request (s : State) : Option Request :=
  match s.dfc.st with
  | .idle => some (.rxRead 1)
  | .recv => some (.rxRead s.room)
  | .applying => some (.sinkApply s.frame)
  | .acking => some (.txWrite (ackBytes s.cfg.frameSize))
  | .halted => none

/-! ### What happens next -/

/-- The Transport's choice as an outcome of `RxRead(cap)` on the queue `q`: at most `cap` bytes, and the
first ones of the queue (R53, R54). -/
def rxAnswer (q : List Byte) (cap : Nat) : RxChoice → RxOutcome
  | .noData => .noData
  | .deliver k => .data (q.take (min k cap))
  | .hardError c => .hardError c

/-- The Transport's choice as an outcome of a write of `len` bytes: at most all of them (R56). -/
def txAnswer (len : Nat) : TxOutcome → TxOutcome
  | .accepted k => .accepted (min k len)
  | .hardError => .hardError

/-- A Receiver step with the environment's free answer. A halted Receiver has no step (R129): only time
passes. -/
def State.freeReceiverEvent (s : State) : Event :=
  match s.request with
  | some (.rxRead cap) => .rx (rxAnswer s.h2d cap (Config.freeRx s.tick))
  | some (.sinkApply _) => .sink (Config.freeSink s.tick)
  | some (.txWrite bs) => .tx (txAnswer bs.length (Config.freeTx s.tick))
  | none => .elapse 0

/-- A Sender step with the environment's free answer. After `Done` and `Failed` the Sender has no step
(R170): only time passes. -/
def State.freeSenderEvent (s : State) : Event :=
  match s.sender.phase with
  | .ready | .guardDelay _ | .checkAck _ | .pace | .pacingSleep _ => .hostLocal
  | .writeOpcode => .hostTx (txAnswer 1 (Config.freeTx s.tick))
  | .writePayload m => .hostTx (txAnswer (s.sender.payload.length - m) (Config.freeTx s.tick))
  | .awaitAck => .hostRx (rxAnswer s.d2h 1 (Config.freeRx s.tick))
  | .done | .failed _ _ => .elapse 0

/-- What happens next when nothing is scripted: any agent's step, with any outcome its transaction
allows, or an input from outside (R54, R174, U15, U17). -/
def State.freeEvent (s : State) : Event :=
  match Config.freeTurn s.tick with
  | .receiver => s.freeReceiverEvent
  | .sender => s.freeSenderEvent
  | .inject bs => .inject bs
  | .elapse d => .elapse d
  | .rst => .rst

/-- What happens next. -/
def State.pending (s : State) : Event :=
  match s.events with
  | e :: _ => e
  | [] => s.freeEvent

/-! ### Which answers are outcomes of a transaction -/

/-- Whether `o` is an outcome of `RxRead(cap)` on the queue `q`: never more than `cap` bytes, and only
the first bytes of the queue (R53, R54). -/
def rxFits (q : List Byte) (cap : Nat) : RxOutcome → Bool
  | .noData => true
  | .data bs => decide (bs.length ≤ cap) && bs.isPrefixOf q
  | .hardError _ => true

/-- Whether `o` is an outcome of a write of `len` bytes (R56). -/
def txFits (len : Nat) : TxOutcome → Bool
  | .accepted k => decide (k ≤ len)
  | .hardError => true

/-- How many bytes of the queue a read removes (R53, U11). -/
def rxConsumed : RxOutcome → Nat
  | .noData => 0
  | .data bs => bs.length
  | .hardError c => c

/-- How many of the bytes offered a write takes (R56). A transport fault takes none. -/
def txTaken : TxOutcome → Nat
  | .accepted k => k
  | .hardError => 0

/-! ### The transactions

Each answers the outcome and the state after it, or none where the pending event is not an outcome of
this transaction. -/

/-- `RxRead(cap)` by the Receiver, on `h2d` (R53). -/
def State.rxRead (s : State) (cap : Nat) : Option (RxOutcome × State) :=
  match s.pending with
  | .rx o =>
    if rxFits s.h2d cap o then some (o, s.advance.popH2d (rxConsumed o)) else none
  | _ => none

/-- `TxWrite(bs)` by the Receiver, on `d2h` (R56). -/
def State.txWrite (s : State) (bs : List Byte) : Option (TxOutcome × State) :=
  match s.pending with
  | .tx o =>
    if txFits bs.length o then some (o, s.advance.pushD2h (bs.take (txTaken o))) else none
  | _ => none

/-- `SinkApply` by the Receiver (R58). The display is not modelled: the sink is an oracle (U14). -/
def State.sinkApply (s : State) : Option (SinkOutcome × State) :=
  match s.pending with
  | .sink o => some (o, s.advance)
  | _ => none

/-- `RxRead(1)` by the Sender, on `d2h` (42_host_sender.md R166). -/
def State.hostRead (s : State) : Option (RxOutcome × State) :=
  match s.pending with
  | .hostRx o =>
    if rxFits s.d2h 1 o then some (o, s.advance.popD2h (rxConsumed o)) else none
  | _ => none

/-- `TxWrite(bs)` by the Sender, on `h2d` (42_host_sender.md R163, R165). -/
def State.hostWrite (s : State) (bs : List Byte) : Option (TxOutcome × State) :=
  match s.pending with
  | .hostTx o =>
    if txFits bs.length o then some (o, s.advance.pushH2d (bs.take (txTaken o))) else none
  | _ => none

/-- A Sender step without a port transaction. -/
def State.hostLocal (s : State) : Option State :=
  match s.pending with
  | .hostLocal => some s.advance
  | _ => none

end Sys2Proof.Machine
end

