-- ==== Sys2Proof/Machine/Receiver.lean ====
section
/-! DEFINITION. The Receiver State Machine (spec/41_receiver.md): the `Idle` poll that fetches an opcode
byte, and the meanings of the two instructions.

One step is one port transaction (R121, D2), so FULLDATA takes many steps. After its dispatch no latch
holds its opcode: `st` implies it (R20). So its meaning is given by the control state it finds. -/

namespace Sys2Proof.Machine

/-- A stop of the model as the step's outcome, or the next state. -/
abbrev Result := Host.Outcome State Fault Refusal

/-! ### Idle: the fetch (R122) -/

/-- What the `Idle` poll answers. -/
inductive Fetched
  /-- No opcode byte was read, and the step is over. -/
  | settled (r : Result)
  /-- An opcode byte was read, to be dispatched in the same step. -/
  | opcode (b : Byte) (s : State)

/-- The `Idle` poll, `RxRead(1)` (R122). The byte is removed from `h2d` and `Fetch(b)` is emitted. -/
def fetch (s : State) : Fetched :=
  match s.rxRead 1 with
  | none => .settled (.refused .notAnOutcome)
  | some (.noData, t) => .settled (.next t)
  | some (.data [], t) => .settled (.next t)
  | some (.data (b :: _), t) => .opcode b (t.emit (.fetch b))
  | some (.hardError _, t) => .settled (.next (t.raiseHalt .rxFault none))

/-- The instruction in progress outside `Idle`: the opcode is implied by `st` (R20). None when halted. -/
def inProgress : St → Option Instr
  | .idle => none
  | .recv | .applying | .acking => some .fulldata
  | .halted => none

/-! ### FULLDATA -/

/-- The dispatch of FULLDATA in `Idle` (R123): `st <- Recv ; n <- 0`. `buf` is not cleared. -/
def dispatchFulldata (s : State) : State := (s.setSt .recv).setN 0

/-- The bytes of a successful payload read (R126): stored at `n` as they are, `n` advanced, and the
completion test in the same step. A read of no bytes changes nothing (D6). -/
def storePayload (bs : List Byte) (s : State) : State :=
  if bs.isEmpty then s
  else
    let t := ((s.writeBuf s.dfc.n bs).emit (.stored s.dfc.n bs)).setN (s.dfc.n + bs.length)
    if t.dfc.n = t.cfg.frameSize then t.setSt .applying else t

/-- The `Recv` step (R126): a read of the room that is left. -/
def recvStep (s : State) : Result :=
  if s.dfc.n < s.cfg.frameSize then
    match s.rxRead s.room with
    | none => .refused .notAnOutcome
    | some (.noData, t) => .next t
    | some (.data bs, t) => .next (storePayload bs t)
    | some (.hardError _, t) => .next (t.raiseHalt .rxFault none)
  else .fault .zeroCapacityRead

/-- The `Applying` step (R127): the whole buffer to the display sink, once. -/
def applyStep (s : State) : Result :=
  match s.frame with
  | none => .fault .unwrittenRead
  | some bs =>
    match s.sinkApply with
    | none => .refused .notAnOutcome
    | some (.ok, t) => .next ((t.emit (.apply bs)).setSt .acking)
    | some (.fail, t) => .next (t.raiseHalt .sinkFault none)

/-- The `Acking` step (R128): one `0x04` byte, offered until it is accepted. -/
def ackStep (s : State) : Result :=
  match s.txWrite (ackBytes s.cfg.frameSize) with
  | none => .refused .notAnOutcome
  | some (.accepted 0, t) => .next t
  | some (.accepted (_ + 1), t) => .next ((t.emit .ackSent).setSt .idle)
  | some (.hardError, t) => .next (t.raiseHalt .txFault none)

/-- FULLDATA (R123, R126 to R129, R131): in `Idle`, its dispatch; in `Recv`, `Applying` and `Acking`, the
step of the message that is due. A halted Receiver changes no field (R129). -/
def execFulldata (s : State) : Result :=
  match s.dfc.st with
  | .idle => .next (dispatchFulldata s)
  | .recv => recvStep s
  | .applying => applyStep s
  | .acking => ackStep s
  | .halted => .next s

/-! ### COMMACK -/

/-- COMMACK at the Receiver (R124): it is discarded. No field changes, nothing is written to `TX`. The
byte itself was consumed by the fetch. -/
def execCommack (s : State) : Result := .next s

end Sys2Proof.Machine
end

