-- ==== Sys2Proof/Machine/Dispatch.lean ====
section
/-! DEFINITION. One arm per instruction. -/

namespace Sys2Proof.Machine

def exec (i : Instr) (s : State) : Host.Outcome State Fault Refusal :=
  match i with
  | .fulldata => Sys2Proof.Machine.execFulldata s
  | .commack => Sys2Proof.Machine.execCommack s

end Sys2Proof.Machine
end

