-- ==== Sys2Proof/Machine/HostPump.lean ====
section
/-! DEFINITION. The Sender Pump (spec/42_host_sender.md R160 to R172), DFC's peer: one step of it, by the
step of the frame it stands in. -/

namespace Sys2Proof.Machine

/-- Go to a step of the frame. -/
def State.setPhase (s : State) (p : Phase) : State := { s with sender := { s.sender with phase := p } }

/-- Fail the transfer: nothing more is written (R170). -/
def State.failTransfer (s : State) (point : FailPoint) (cause : FailCause) : State :=
  s.setPhase (.failed point cause)

/-- Begin step 1 of the frame `p`: `t0` is the wall time at which it begins (R163). -/
def State.beginFrame (s : State) (p : List Byte) (rest : List SourceItem) : State :=
  { s with
    source := rest
    sender := { s.sender with payload := p, phase := .writeOpcode, t0 := s.now } }

/-- Begin step 4: from now on the Sender waits for the ack (R165, R166). -/
def State.beginAckWait (s : State) : State :=
  { s with sender := { s.sender with phase := .awaitAck, waitSince := s.now } }

/-- `j <- j + 1`, and ready for the next frame (R168). -/
def State.nextFrame (s : State) : State :=
  { s with sender := { s.sender with j := s.sender.j + 1, phase := .ready } }

/-- A step without a transaction, or a refusal where the pending event is another. -/
def localStep (s : State) (f : State → State) : Result :=
  match s.hostLocal with
  | some t => .next (f t)
  | none => .refused .notAnOutcome

/-- Ready: the frame source yields the frame, fails, or is exhausted (R162, R168). A failure leaves the
wire at a frame boundary. -/
def pullFrame (s : State) : Result :=
  match s.source with
  | [] => localStep s fun t => t.setPhase .done
  | .failure :: _ => localStep s fun t => t.failTransfer .source .sourceFault
  | .frame p :: rest =>
    match mkFullData s.cfg.hostFrameSize p with
    | .ok _ => localStep s fun t => t.beginFrame p rest
    | .error .badLength => .refused .badSourceFrame

/-- Step 1: write the FullData opcode byte, the first component of `encode(FullData p_j)` (`encode_fst` in
Laws/Decode.lean), again after `Accepted(0)` (R163). Then the guard delay begins. -/
def writeOpcodeStep (s : State) : Result :=
  match s.hostWrite [encodeOpcode .fulldata] with
  | none => .refused .notAnOutcome
  | some (.accepted 0, t) => .next t
  | some (.accepted (_ + 1), t) => .next (t.setPhase (.guardDelay (t.now + t.cfg.guardDelay)))
  | some (.hardError, t) => .next (t.failTransfer .step1 .transportFault)

/-- Step 2: wait for the guard delay (R164). It changes nothing on the wire. -/
def guardDelayStep (s : State) (wake : Nat) : Result :=
  localStep s fun t => if wake ≤ t.now then t.setPhase (.writePayload 0) else t

/-- Step 3: write the rest of the payload, until all of it is accepted (R165). -/
def writePayloadStep (s : State) (m : Nat) : Result :=
  match s.hostWrite (s.sender.payload.drop m) with
  | none => .refused .notAnOutcome
  | some (.accepted k, t) =>
    .next (if m + k = t.sender.payload.length then t.beginAckWait else t.setPhase (.writePayload (m + k)))
  | some (.hardError, t) => .next (t.failTransfer .step3 .transportFault)

/-- Whether the ack wait has lasted as long as `ACK_DEADLINE`; never where there is none (R172). -/
def State.ackOverdue (s : State) : Bool :=
  s.cfg.ackDeadline.any fun d => decide (d ≤ s.now - s.sender.waitSince)

/-- After `Timeout` or an empty read, step 4 repeats, without bound in the reference behaviour (R166,
R172). DESIGN CHOICE, assumption 15: where there is a deadline and it has passed, the transfer fails
instead. -/
def retryAck (s : State) : State := if s.ackOverdue then s.failTransfer .step4 .ackDeadline else s

/-- Step 4: read one opcode byte, retrying on `Timeout` and on an empty read (R166). -/
def awaitAckStep (s : State) : Result :=
  match s.hostRead with
  | none => .refused .notAnOutcome
  | some (.noData, t) => .next (retryAck t)
  | some (.data [], t) => .next (retryAck t)
  | some (.data (b :: _), t) => .next (t.setPhase (.checkAck b))
  | some (.hardError _, t) => .next (t.failTransfer .step4 .transportFault)

/-- Step 5: any byte but the CommACK opcode fails the transfer (R167). -/
def checkAckStep (s : State) (b : Byte) : Result :=
  localStep s fun t =>
    if b = Config.opCommAck then t.setPhase .pace else t.failTransfer .step5 .protocolViolation

/-- How long step 6 sleeps: the rest of the interval, and nothing when it was exceeded (R168). -/
def pacingSleepTime (interval elapsed : Nat) : Nat := interval - elapsed

/-- Step 6: sleep the remainder of the target interval, or go on at once (R168). -/
def paceStep (s : State) : Result :=
  localStep s fun t =>
    match t.cfg.targetInterval with
    | none => t.nextFrame
    | some d =>
      if t.now - t.sender.t0 < d then
        t.setPhase (.pacingSleep (t.now + pacingSleepTime d (t.now - t.sender.t0)))
      else t.nextFrame

/-- Step 6: the pacing sleep (R168). -/
def pacingSleepStep (s : State) (wake : Nat) : Result :=
  localStep s fun t => if wake ≤ t.now then t.nextFrame else t

/-- One step of the Sender. After `Done` and `Failed` it has none (R170, R176); it is not restarted either
(assumption 28). -/
def senderStep (s : State) : Result :=
  match s.sender.phase with
  | .ready => pullFrame s
  | .writeOpcode => writeOpcodeStep s
  | .guardDelay wake => guardDelayStep s wake
  | .writePayload m => writePayloadStep s m
  | .awaitAck => awaitAckStep s
  | .checkAck b => checkAckStep s b
  | .pace => paceStep s
  | .pacingSleep wake => pacingSleepStep s wake
  | .done => .refused .notAnOutcome
  | .failed _ _ => .refused .notAnOutcome

end Sys2Proof.Machine
end

