-- ==== Sys2Proof/Machine/Step.lean ====
section
/-! DEFINITION. One step of the system (spec/42_host_sender.md R174): a step of the Receiver, a step of
the Sender, or an input from outside, whichever is pending. -/

namespace Sys2Proof.Machine

/-- The dispatch of a fetched opcode byte (R122): the instruction it selects, or the invalid opcode. -/
def dispatchOpcode (b : Byte) (s : State) : Host.Outcome State Fault Refusal :=
  match decodeOpcode s.cfg.frameSize b with
  | some i => exec i s
  | none => .next (invalidOpcode b s)

/-- One step of the Receiver (R121): in `Idle` the fetch and the dispatch; otherwise the next step of the
instruction in progress. A halted Receiver has no step (R129). -/
def receiverStep (s : State) : Host.Outcome State Fault Refusal :=
  match s.dfc.st with
  | .idle =>
    match fetch s with
    | .settled r => r
    | .opcode b t => dispatchOpcode b t
  | st =>
    match inProgress st with
    | some i => exec i s
    | none => .refused .notAnOutcome

/-- One step of the system. -/
def step (s : State) : Host.Outcome State Fault Refusal :=
  match s.pending with
  | .rx _ | .tx _ | .sink _ => receiverStep s
  | .hostRx _ | .hostTx _ | .hostLocal => senderStep s
  | .inject bs => .next (s.advance.pushH2d bs)
  | .elapse d => .next (s.advance.passTime d)
  | .rst => .next s.advance.rst

/-- `s` with the message of a table word at the head of `h2d`, DFC in `Idle` at that frame boundary, and
the delivery of its opcode byte as the next event: the very next step fetches and runs it. -/
def State.withFetchWord (s : State) (nbits w : Nat) : State :=
  { s with
    dfc := { s.dfc with st := .idle }
    h2d := tableMessage s.cfg.frameSize nbits w ++ s.h2d
    events := .rx (.data [tableByte (w % 2 ^ nbits) 0]) :: s.events }

end Sys2Proof.Machine
end

