-- ==== Sys2Proof/Safety.lean ====
section
/-! DEFINITION. The terms claims are stated in: what the trace says, the invariants of DFC
(spec/10_state.md R28) and of the closed loop (spec/42_host_sender.md R171, R174), runs, the fairness
hypotheses (R175) and the end of a run (R176). -/

namespace Sys2Proof.Machine

/-! ### Outcomes and events -/

/-- The next state, where there is one. -/
def Result.state : Result → Option State
  | .next t => some t
  | .fault _ => none
  | .refused _ => none

/-- The event is a step of the Receiver. -/
def Event.ofReceiver : Event → Bool
  | .rx _ | .tx _ | .sink _ => true
  | _ => false

/-- The event is a step of the Sender. -/
def Event.ofSender : Event → Bool
  | .hostRx _ | .hostTx _ | .hostLocal => true
  | _ => false

/-- The event is one that R173 assumes the peer never causes: a reset in the middle of a run, or bytes on
`h2d` that are not the Sender Pump's. -/
def Event.stray : Event → Bool
  | .rst => true
  | .inject _ => true
  | _ => false

/-- The event is a fatal answer of the environment to a transaction of DFC (R70, R195). -/
def Event.fatal : Event → Bool
  | .rx (.hardError _) => true
  | .tx .hardError => true
  | .sink .fail => true
  | _ => false

/-- The event is a fatal answer of the Transport to the Sender. -/
def Event.hostFatal : Event → Bool
  | .hostRx (.hardError _) => true
  | .hostTx .hardError => true
  | _ => false

/-- The event is a transient answer to the transaction that DFC asks for in a control state: `NoData`, an
empty `Data`, `Accepted(0)` (R70). -/
def Event.transientIn : Event → St → Bool
  | .rx .noData, .idle => true
  | .rx .noData, .recv => true
  | .rx (.data []), .idle => true
  | .rx (.data []), .recv => true
  | .tx (.accepted 0), .acking => true
  | _, _ => false

/-- A read of DFC that answers `NoData` (none) or `Data(bs)`. -/
def readEvent : Option (List Byte) → Event
  | none => .rx .noData
  | some bs => .rx (.data bs)

/-! ### What the trace says (R32) -/

/-- The payload bytes stored since the most recent dispatch of a FullData. -/
def payloadSoFar (trace : List TraceEvent) : List Byte :=
  trace.foldl (init := []) fun acc e =>
    match e with
    | .fetch b => if b = Config.opFullData then [] else acc
    | .stored _ bs => acc ++ bs
    | _ => acc

/-- The frames the sink has accepted, in order. -/
def applied (trace : List TraceEvent) : List (List Byte) :=
  trace.filterMap fun e =>
    match e with
    | .apply bs => some bs
    | _ => none

/-- How many acknowledgements `TX` has accepted. -/
def acksSent (trace : List TraceEvent) : Nat := trace.count .ackSent

/-- `Stored` events of consecutive chunks from an offset on: the offsets are the running sums of the
chunks' lengths (R131). A read of no bytes leaves no event. -/
def storedEvents (off : Nat) : List (List Byte) → List TraceEvent
  | [] => []
  | bs :: rest =>
    if bs.isEmpty then storedEvents off rest
    else .stored off bs :: storedEvents (off + bs.length) rest

/-! ### The invariants of DFC (R28) -/

/-- Invariants I1 to I6 and I9 of R28, with the canonical form of the buffer and what is recorded of an
invalid opcode. (I7 and I8 speak of two states.) -/
structure Inv (s : State) : Prop where
  /-- The parameters are in the ranges of table R6. -/
  params : s.cfg.wf = true
  /-- I1. -/
  counter_le : s.dfc.n ≤ s.cfg.frameSize
  /-- I2. -/
  recv_lt : s.dfc.st = .recv → s.dfc.n < s.cfg.frameSize
  /-- I3. -/
  full_frame : s.dfc.st = .applying ∨ s.dfc.st = .acking → s.dfc.n = s.cfg.frameSize
  /-- I4 and I5: the first `n` elements are the payload of the current message, in wire order. In
  `Applying` these are all elements, by I3. -/
  assembled : s.dfc.st = .recv ∨ s.dfc.st = .applying ∨ s.dfc.st = .acking →
    Memory.readBytes s.dfc.buf 0 s.dfc.n = some (payloadSoFar s.trace)
  /-- I6. -/
  cause_none_iff : s.dfc.haltCause = .none ↔ s.dfc.st ≠ .halted
  /-- I9. -/
  halt_policy : s.cfg.policy = .halt → s.dfc.invFlag = true →
    s.dfc.st = .halted ∧ s.dfc.haltCause = .invalidOpcode
  /-- The buffer is in canonical form. -/
  buf_wf : Memory.wf s.dfc.buf
  /-- The buffer has no element at or above `FRAME_SIZE` (R51, R63). -/
  buf_bound : ∀ a, s.cfg.frameSize ≤ a → Memory.read s.dfc.buf a = none
  /-- What `fault_byte` holds while it is meaningful is no opcode (R26, table R31). -/
  fault_byte : s.dfc.invFlag = true →
    s.dfc.faultByte ≠ Config.opFullData ∧ s.dfc.faultByte ≠ Config.opCommAck

/-- One acknowledgement per applied frame, after it, and never an unsolicited one (R135, O2 and O3 of
R65). In `Acking` one acknowledgement is owed; a halted DFC may owe one. -/
def AcksMatchFrames (s : State) : Prop :=
  match s.dfc.st with
  | .acking => (applied s.trace).length = acksSent s.trace + 1
  | .halted => acksSent s.trace ≤ (applied s.trace).length ∧
      (applied s.trace).length ≤ acksSent s.trace + 1
  | _ => (applied s.trace).length = acksSent s.trace

/-! ### The closed loop (R171, R174) -/

/-- DFC stands at a frame boundary with both queues empty, or it has halted with no ack unread. -/
def QuietLink (s : State) : Prop :=
  s.d2h = [] ∧ (s.dfc.st = .halted ∨ (s.dfc.st = .idle ∧ s.h2d = []))

/-- The Sender is in the middle of frame `j` of `fs`. -/
def InFrame (fs : List (List Byte)) (s : State) : Prop :=
  fs[s.sender.j]? = some s.sender.payload ∧ s.source = (fs.drop (s.sender.j + 1)).map .frame

/-- The first `n` elements of the buffer are the first `n` bytes of the Sender's current frame. -/
def HoldsPrefix (s : State) : Prop :=
  Memory.readBytes s.dfc.buf 0 s.dfc.n = some (s.sender.payload.take s.dfc.n)

/-- The Sender has written the opcode byte and `m` payload bytes: they are in `h2d` or in DFC. -/
def SendingLink (m : Nat) (s : State) : Prop :=
  s.d2h = [] ∧
    (s.dfc.st = .halted
      ∨ (s.dfc.st = .idle ∧ s.h2d = Config.opFullData :: s.sender.payload.take m)
      ∨ (s.dfc.st = .recv ∧ s.dfc.n ≤ m ∧ s.h2d = (s.sender.payload.take m).drop s.dfc.n ∧ HoldsPrefix s))

/-- The Sender has written the whole message of frame `j` and waits for its ack. Of `fs` the sink has
accepted the first `j` frames before frame `j` is applied, and `j + 1` from then on. -/
def AwaitingLink (fs : List (List Byte)) (s : State) : Prop :=
  let before := applied s.trace = fs.take s.sender.j
  let after := applied s.trace = fs.take (s.sender.j + 1)
  match s.dfc.st with
  | .halted => (s.d2h = [] ∧ (before ∨ after)) ∨ (s.d2h = [Config.opCommAck] ∧ after)
  | .idle =>
    (s.h2d = Config.opFullData :: s.sender.payload ∧ s.d2h = [] ∧ before)
      ∨ (s.h2d = [] ∧ s.d2h = [Config.opCommAck] ∧ after)
  | .recv =>
    s.dfc.n < s.cfg.frameSize ∧ s.h2d = s.sender.payload.drop s.dfc.n ∧ s.d2h = [] ∧ before ∧ HoldsPrefix s
  | .applying =>
    s.dfc.n = s.cfg.frameSize ∧ s.h2d = [] ∧ s.d2h = [] ∧ before ∧ HoldsPrefix s
  | .acking => s.h2d = [] ∧ s.d2h = [] ∧ after

/-- The invariant of the closed loop for a source of frames `fs`: at most one frame is in flight, its
bytes are where they should be, and the sink has accepted exactly the frames before it, in order. Nothing
is said after the Sender has failed. -/
def LinkInv (fs : List (List Byte)) (s : State) : Prop :=
  1 ≤ s.cfg.frameSize ∧ s.cfg.hostFrameSize = s.cfg.frameSize ∧ (∀ p ∈ fs, p.length = s.cfg.frameSize) ∧
    match s.sender.phase with
    | .ready =>
      s.sender.j ≤ fs.length ∧ s.source = (fs.drop s.sender.j).map .frame ∧ QuietLink s ∧
        applied s.trace = fs.take s.sender.j
    | .writeOpcode => InFrame fs s ∧ QuietLink s ∧ applied s.trace = fs.take s.sender.j
    | .guardDelay _ => InFrame fs s ∧ SendingLink 0 s ∧ applied s.trace = fs.take s.sender.j
    | .writePayload m =>
      m < s.cfg.frameSize ∧ InFrame fs s ∧ SendingLink m s ∧ applied s.trace = fs.take s.sender.j
    | .awaitAck => InFrame fs s ∧ AwaitingLink fs s
    | .checkAck b =>
      b = Config.opCommAck ∧ InFrame fs s ∧ QuietLink s ∧ applied s.trace = fs.take (s.sender.j + 1)
    | .pace | .pacingSleep _ =>
      InFrame fs s ∧ QuietLink s ∧ applied s.trace = fs.take (s.sender.j + 1)
    | .done => QuietLink s ∧ applied s.trace = fs
    | .failed _ _ => True

/-- The frame source keeps its contract: every frame it yields has the host's `FRAME_SIZE` (R162). -/
def SourceWf (s : State) : Prop :=
  ∀ p, SourceItem.frame p ∈ s.source → p.length = s.cfg.hostFrameSize

/-! ### Runs, fairness and the end of a run -/

/-- `k` steps of the machine. -/
def runFor (k : Nat) (s : State) : Result := Host.Core.run Sys2Proof.core k s

/-- `s` with `e` as the one thing that happens next. -/
def State.given (s : State) (e : Event) : State := { s with events := [e] }

/-- A run without end: at every point what happens is `es`, and every step answers the next state. The
choices `es` of the environment are any; when nothing is scripted the free ones of `State.freeEvent` are
among them. -/
def IsRun (es : Nat → Event) (r : Nat → State) : Prop := ∀ k, step ((r k).given (es k)) = .next (r (k + 1))

/-- F1 of R175: the Receiver takes steps infinitely often while it is not halted. F4, that every
`SinkApply` returns, holds with it: a step contains the answer. -/
def ReceiverFair (es : Nat → Event) (r : Nat → State) : Prop :=
  ∀ k, ∃ i, k ≤ i ∧ ((r i).dfc.st = .halted ∨ (es i).ofReceiver = true)

/-- F2 of R175 for `h2d`: if from some point on it is never empty and DFC polls it infinitely often, some
poll returns a non-empty `Data`. -/
def RxFair (es : Nat → Event) (r : Nat → State) : Prop :=
  ∀ k, (∀ i, k ≤ i → (r i).h2d ≠ []) → (∀ i, k ≤ i → ∃ j o, i ≤ j ∧ es j = .rx o) →
    ∃ i b bs, k ≤ i ∧ es i = .rx (.data (b :: bs))

/-- F3 of R175 for DFC: if from some point on it offers bytes infinitely often, some write accepts one. -/
def TxFair (es : Nat → Event) : Prop :=
  ∀ k, (∀ i, k ≤ i → ∃ j o, i ≤ j ∧ es j = .tx o) → ∃ i n, k ≤ i ∧ es i = .tx (.accepted (n + 1))

/-- F2 of R175 for `d2h`, the Sender's reads. -/
def HostRxFair (es : Nat → Event) (r : Nat → State) : Prop :=
  ∀ k, (∀ i, k ≤ i → (r i).d2h ≠ []) → (∀ i, k ≤ i → ∃ j o, i ≤ j ∧ es j = .hostRx o) →
    ∃ i b bs, k ≤ i ∧ es i = .hostRx (.data (b :: bs))

/-- F3 of R175 for the Sender. -/
def HostTxFair (es : Nat → Event) : Prop :=
  ∀ k, (∀ i, k ≤ i → ∃ j o, i ≤ j ∧ es j = .hostTx o) → ∃ i n, k ≤ i ∧ es i = .hostTx (.accepted (n + 1))

/-- The Sender is neither `Done` nor `Failed` (R161). -/
def Phase.running : Phase → Bool
  | .done => false
  | .failed _ _ => false
  | _ => true

/-- F5 of R175: the Sender takes steps infinitely often while it is running, and its delays are finite:
the wall clock passes every time. -/
def SenderFair (es : Nat → Event) (r : Nat → State) : Prop :=
  (∀ k, ∃ i, k ≤ i ∧ ((r i).sender.phase.running = false ∨ (es i).ofSender = true)) ∧
    ∀ d, ∃ k, d ≤ (r k).now

/-- The run ended successfully (R176). -/
def EndedWell (s : State) : Prop :=
  s.sender.phase = .done ∧ s.h2d = [] ∧ s.d2h = [] ∧ s.dfc.st = .idle

/-- The run ended in failure (R176). -/
def EndedInFailure (s : State) : Prop :=
  s.dfc.st = .halted ∨ ∃ point cause, s.sender.phase = .failed point cause

/-- Nobody can make progress (R176): DFC polls an empty queue in `Idle` or `Recv`, and the Sender is done,
or spins in step 4 on an empty queue with no deadline. -/
def NoProgress (s : State) : Prop :=
  (s.dfc.st = .idle ∨ s.dfc.st = .recv) ∧ s.h2d = [] ∧
    (s.sender.phase = .done ∨ (s.sender.phase = .awaitAck ∧ s.d2h = [] ∧ s.cfg.ackDeadline = none))

/-- The run is hung (R176, R239): it has ended neither successfully nor in failure, and nobody can make
progress. A Sender that is done is hung with DFC where DFC is in the middle of a message, or where an ack
lies unread on `d2h`. A halted DFC is the end in failure and not a hang (assumption 26). -/
def Hung (s : State) : Prop := ¬ EndedWell s ∧ ¬ EndedInFailure s ∧ NoProgress s

end Sys2Proof.Machine
end

