-- ==== Sys2Proof/Certificates/Slice0/Obligations.lean ====
section
/-! DEFINITION. The statements for the provers. Each docstring names the rule of spec/ it formalises. A
rule that the spec marks as its own decision (D<n> of spec/92_eei_decisions.md) is named as such. -/

open Sys2Proof Sys2Proof.Machine

/-! ### The Codec (spec/40_codec.md) -/

/-- R103, R104: the pair `encode` answers and the bytes on the wire. -/
def Obligations.EncodeGivesOpcodeAndPayload : Prop :=
  ∀ F : Nat,
    (∀ p : Frame F, encode (.fullData p) = (0x03#8, some p.1) ∧ wire (.fullData p) = [0x03#8] ++ p.1 ∧
      (wire (.fullData p)).length = 1 + F) ∧
    encode (F := F) .commAck = (0x04#8, none) ∧ wire (F := F) .commAck = [0x04#8]

/-- R106, R107, R109: the answers of `decode` that the document itself gives. -/
def Obligations.DecodeAnswersOrRejects : Prop :=
  ∀ F : Nat,
    (∀ (bs : List Byte) (h : bs.length = F), decode F 0x03#8 (some bs) = .ok (.fullData ⟨bs, h⟩)) ∧
    decode F 0x03#8 none = .err .missingData ∧
    (∀ bs : List Byte, bs.length < F → decode F 0x03#8 (some bs) = .err .missingData) ∧
    ∀ (b : Byte) (x : Option (List Byte)), b ≠ 0x03#8 → b ≠ 0x04#8 → decode F b x = .err .invalidOpcode

/-- R101, R105 and R108 where the spec decides (D15, D28; assumption 17): a payload given with `0x04` is
ignored, a payload that is too long is outside the domain of `decode`, and a FullData of the wrong length
fails to construct. -/
def Obligations.DecodeAndConstructionDomain : Prop :=
  ∀ (F : Nat) (bs : List Byte),
    decode F 0x04#8 none = .ok .commAck ∧
    (bs.length ≤ F → decode F 0x04#8 (some bs) = .ok .commAck) ∧
    (F < bs.length → decode F 0x03#8 (some bs) = .outsideDomain ∧ decode F 0x04#8 (some bs) = .outsideDomain) ∧
    (∀ h : bs.length = F, mkFullData F bs = .ok (.fullData ⟨bs, h⟩)) ∧
    (bs.length ≠ F → mkFullData F bs = .error .badLength)

/-- R81, with the payload length of table R81: which opcode byte is which instruction, and that no other
byte is one. -/
def Obligations.OpcodeMapIsClosed : Prop :=
  ∀ (F : Nat) (b : Byte),
    (decodeOpcode F b = some .fulldata ↔ b = 0x03#8) ∧ (decodeOpcode F b = some .commack ↔ b = 0x04#8) ∧
    (decodeOpcode F b = none ↔ b ≠ 0x03#8 ∧ b ≠ 0x04#8) ∧
    encodeOpcode .fulldata = 0x03#8 ∧ encodeOpcode .commack = 0x04#8 ∧
    payloadLen F .fulldata = F ∧ payloadLen F .commack = 0

/-- R110 (derived by the spec): what `encode` answers decodes to the same Signal (L1, L2), two Signals never
share a message (L4), and what `decode` answers has the opcode it was given, and a FullData the payload, of
`FRAME_SIZE` bytes (L5, L6). -/
def Obligations.CodecLaws : Prop :=
  ∀ F : Nat,
    (∀ s : Signal F, decode F (encode s).1 (encode s).2 = .ok s) ∧
    (∀ s u : Signal F, wire s = wire u → s = u) ∧
    ∀ (b : Byte) (x : Option (List Byte)) (s : Signal F), decode F b x = .ok s →
      b = (encode s).1 ∧ ∀ p : Frame F, s = .fullData p → x = some p.1 ∧ p.1.length = F

/-- R87, R88 and R89 (derived by the spec): the first message of a stream is read back whatever follows
it, every payload byte included. -/
def Obligations.FirstMessageOfAStreamIsReadBack : Prop :=
  ∀ (F : Nat) (s : Signal F) (rest : List Byte), decodeMessage F (wire s ++ rest) = .ok (s, rest)

/-- R88 (derived by the spec): decode and encode agree on whole streams. The byte streams that decode are
exactly the concatenations of messages of Signals, and each decodes to those Signals. -/
def Obligations.StreamsDecodeExactlyToTheirMessages : Prop :=
  ∀ (F : Nat) (bs : List Byte) (ss : List (Signal F)), decodeStream F bs = .ok ss ↔ bs = ss.flatMap wire

/-- Words of the opcode table written out bit by bit from R81. -/
def Obligations.OpcodeTableWordsDecode : Prop :=
  decodeTableWord 8 0b00000011 = some .fulldata ∧ decodeTableWord 8 0b00000100 = some .commack ∧
  decodeTableWord 8 0b10000011 = none ∧ decodeTableWord 8 0b00000111 = none ∧ decodeTableWord 8 0 = none

/-! ### Fetch and dispatch (spec/41_receiver.md R122 to R125) -/

/-- R122, R111 (the capacity of the poll is the spec's decision D4): when the byte that the `Idle` poll
reads is an instruction's opcode, the step is that instruction, run after the byte has left `h2d` and
`Fetch` is in the trace. -/
def Obligations.StepRunsTheFetchedInstruction : Prop :=
  ∀ (s : State) (b : Byte) (rest : List Byte) (i : Instr),
    s.dfc.st = .idle → s.pending = .rx (.data [b]) → s.h2d = b :: rest →
    decodeOpcode s.cfg.frameSize b = some i →
    step s = exec i { s with
      h2d := rest, trace := s.trace ++ [.fetch b], events := s.events.tail, tick := s.tick + 1 }

/-- R20, R121 (the step's granularity is the spec's decision D2; that these steps belong to FULLDATA is
assumption 2): in `Recv`, `Applying` and `Acking` a Receiver step is the next step of FULLDATA. -/
def Obligations.StepContinuesTheInstructionInProgress : Prop :=
  ∀ s : State, s.dfc.st = .recv ∨ s.dfc.st = .applying ∨ s.dfc.st = .acking →
    s.pending.ofReceiver = true → step s = exec .fulldata s

/-- The fetch of a word placed for it runs exactly that word's instruction, on a state that is `s` but for
the placed bytes (the opcode byte is consumed, the payload bytes stay queued), the `Idle` state, the `Fetch`
event and the model's counter (the placing is the model's: assumptions 16 and 27). -/
def Obligations.PlacedWordRunsNext : Prop :=
  ∀ (s : State) (i : Instr),
    step (s.withFetchWord 8 (encodeOpcode i).toNat) = exec i { s with
      dfc := { s.dfc with st := .idle },
      h2d := (tableMessage s.cfg.frameSize 8 (encodeOpcode i).toNat).drop 1 ++ s.h2d,
      trace := s.trace ++ [.fetch (encodeOpcode i)], tick := s.tick + 1 }

/-- R123: FULLDATA in `Idle` goes to `Recv` with `n = 0`, in every `Idle`, and writes nothing else (`buf` is
not cleared). The second clause is the same with the fetch around it, whose capacity and `Fetch` event are
the spec's decisions (D4, D22). -/
def Obligations.FulldataDispatches : Prop :=
  (∀ s : State, s.dfc.st = .idle →
    exec .fulldata s = .next { s with dfc := { s.dfc with st := .recv, n := 0 } }) ∧
  ∀ (s : State) (rest : List Byte), s.dfc.st = .idle → s.pending = .rx (.data [0x03#8]) →
    s.h2d = 0x03#8 :: rest →
    step s = .next { s with
      h2d := rest, dfc := { s.dfc with st := .recv, n := 0 }, trace := s.trace ++ [.fetch 0x03#8],
      events := s.events.tail, tick := s.tick + 1 }

/-- R124 (D27: to discard is to consume): in `Idle` COMMACK changes nothing, and the step that fetches it has
no effect but the fetch: no flag, no write to `TX`. R124 speaks of `Idle` alone: that `exec` of COMMACK
answers the same state in the other control states too is the model's choice (assumption 19). -/
def Obligations.CommackIsDiscarded : Prop :=
  (∀ s : State, exec .commack s = .next s) ∧
  ∀ (s : State) (rest : List Byte), s.dfc.st = .idle → s.pending = .rx (.data [0x04#8]) →
    s.h2d = 0x04#8 :: rest →
    step s = .next { s with
      h2d := rest, trace := s.trace ++ [.fetch 0x04#8], events := s.events.tail, tick := s.tick + 1 }

/-- R125 (D8, D9): an invalid opcode byte read in `Idle` sets `inv_flag` and `fault_byte` under both
policies. Under `drop` the Receiver stays in `Idle` and exactly that byte is consumed; under `halt` it
halts. -/
def Obligations.InvalidOpcodeIsRecorded : Prop :=
  ∀ (s : State) (b : Byte) (rest : List Byte), s.dfc.st = .idle → s.pending = .rx (.data [b]) →
    s.h2d = b :: rest → b ≠ 0x03#8 → b ≠ 0x04#8 →
    (s.cfg.policy = .drop → step s = .next { s with
      h2d := rest, dfc := { s.dfc with invFlag := true, faultByte := b },
      trace := s.trace ++ [.fetch b, .dropped b], events := s.events.tail, tick := s.tick + 1 }) ∧
    (s.cfg.policy = .halt → step s = .next { s with
      h2d := rest,
      dfc := { s.dfc with st := .halted, haltCause := .invalidOpcode, invFlag := true, faultByte := b },
      trace := s.trace ++ [.fetch b, .halt .invalidOpcode (some b)], events := s.events.tail,
      tick := s.tick + 1 })

/-! ### Payload assembly, apply, acknowledge (R126 to R128) -/

/-- R126 (D5, D7): a successful read of `k >= 1` bytes in `Recv` stores byte `i` at `buf[n + i]` and no
other, takes exactly those bytes from `h2d`, advances `n` by `k`, and goes to `Applying` in the same step
exactly when the frame is complete. -/
def Obligations.FulldataStoresPayload : Prop :=
  ∀ (s : State) (bs : List Byte), s.dfc.st = .recv → s.dfc.n < s.cfg.frameSize →
    s.pending = .rx (.data bs) → bs ≠ [] → bs.length ≤ s.cfg.frameSize - s.dfc.n → bs <+: s.h2d →
    ∃ t : State, exec .fulldata s = .next t ∧
      t.dfc.n = s.dfc.n + bs.length ∧
      t.dfc.st = (if s.dfc.n + bs.length = s.cfg.frameSize then .applying else .recv) ∧
      (∀ i, i < bs.length → Memory.read t.dfc.buf (s.dfc.n + i) = bs[i]?) ∧
      (∀ a, a < s.dfc.n ∨ s.dfc.n + bs.length ≤ a → Memory.read t.dfc.buf a = Memory.read s.dfc.buf a) ∧
      t.h2d = s.h2d.drop bs.length ∧ t.trace = s.trace ++ [.stored s.dfc.n bs] ∧
      t.dfc.haltCause = s.dfc.haltCause ∧ t.dfc.invFlag = s.dfc.invFlag ∧
      t.dfc.faultByte = s.dfc.faultByte

/-- R127: in `Applying` the whole buffer, `buf[0]` first, is what the sink is asked to apply. On `Ok` the
Receiver goes to `Acking`; on `Fail` it halts with `SINK_FAULT`. `n` and `buf` are unchanged and no byte is
written to `TX`. -/
def Obligations.FulldataAppliesTheFrame : Prop :=
  ∀ (s : State) (bs : List Byte), s.dfc.st = .applying →
    Memory.readBytes s.dfc.buf 0 s.cfg.frameSize = some bs →
    s.request = some (.sinkApply (some bs)) ∧
    (s.pending = .sink .ok → exec .fulldata s = .next { s with
      dfc := { s.dfc with st := .acking }, trace := s.trace ++ [.apply bs],
      events := s.events.tail, tick := s.tick + 1 }) ∧
    (s.pending = .sink .fail → exec .fulldata s = .next { s with
      dfc := { s.dfc with st := .halted, haltCause := .sinkFault },
      trace := s.trace ++ [.halt .sinkFault none], events := s.events.tail, tick := s.tick + 1 })

/-- R128 (D13): in `Acking` the single byte `0x04` is offered to `TX`. When it is accepted the Receiver
returns to `Idle`; when it is not it stays, to offer it again. -/
def Obligations.FulldataAcknowledges : Prop :=
  ∀ s : State, s.dfc.st = .acking →
    s.request = some (.txWrite [0x04#8]) ∧
    (s.pending = .tx (.accepted 1) → exec .fulldata s = .next { s with
      dfc := { s.dfc with st := .idle }, d2h := s.d2h ++ [0x04#8], trace := s.trace ++ [.ackSent],
      events := s.events.tail, tick := s.tick + 1 }) ∧
    (s.pending = .tx (.accepted 0) → exec .fulldata s = .next { s with
      events := s.events.tail, tick := s.tick + 1 })

/-- R193 with R70 (that an empty read and a refused write are transient is D6 and D13): transient answers,
however many, change no field of DFC, no queue and no trace, in `Idle`, `Recv` and `Acking`. -/
def Obligations.TransientAnswersChangeNothing : Prop :=
  ∀ (s : State) (es more : List Event),
    (s.dfc.st = .recv → s.dfc.n < s.cfg.frameSize) →
    (∀ e ∈ es, e.transientIn s.dfc.st = true) → s.events = es ++ more →
    runFor es.length s = .next { s with events := more, tick := s.tick + es.length }

/-- R122, R126, R128 on `HardError` (D23, D13), R193: the first fatal answer halts DFC, with the fault's
class and nothing else recorded; `n` and `buf` keep their values and no byte reaches `TX`. How many bytes of
`h2d` the failed read removes is the environment's choice `c` (assumption 8), that a failed write appends
nothing to `d2h` is assumption 9, and that a failed read leaves the elements of `buf` from `n` on as they
were is assumption 25. -/
def Obligations.HardErrorHaltsAtOnce : Prop :=
  (∀ (s : State) (c : Nat), s.dfc.st = .idle ∨ (s.dfc.st = .recv ∧ s.dfc.n < s.cfg.frameSize) →
    s.pending = .rx (.hardError c) → step s = .next { s with
      h2d := s.h2d.drop c, dfc := { s.dfc with st := .halted, haltCause := .rxFault },
      trace := s.trace ++ [.halt .rxFault none], events := s.events.tail, tick := s.tick + 1 }) ∧
  ∀ s : State, s.dfc.st = .acking → s.pending = .tx .hardError → step s = .next { s with
    dfc := { s.dfc with st := .halted, haltCause := .txFault },
    trace := s.trace ++ [.halt .txFault none], events := s.events.tail, tick := s.tick + 1 }

/-- R89, R126, R192 (derived by the spec): payload bytes are opaque. Two reads of the same length in `Recv`,
whatever the bytes and whatever the buffer holds, leave DFC the same but for the buffer. -/
def Obligations.PayloadBytesAreOpaque : Prop :=
  ∀ (s u s' u' : State) (bs cs : List Byte),
    s.dfc.st = .recv → { u.dfc with buf := s.dfc.buf } = s.dfc → u.cfg = s.cfg →
    s.pending = .rx (.data bs) → u.pending = .rx (.data cs) → bs.length = cs.length →
    exec .fulldata s = .next s' → exec .fulldata u = .next u' →
    { u'.dfc with buf := s'.dfc.buf } = s'.dfc

/-- R123, R126 to R128: the frame of FULLDATA. The parameters, the host and `inv_flag` with `fault_byte`
are unchanged. `n` changes only in `Idle` and `Recv`, `halt_cause` only by a halt, `h2d` only in `Recv`,
`d2h` only in `Acking`, and an element of `buf` only where the bytes that are read in `Recv` are stored. That
a failed read leaves the elements from `n` on as they were too follows R196, and is assumption 25. -/
def Obligations.FulldataFrame : Prop :=
  ∀ s t : State, exec .fulldata s = .next t →
    t.cfg = s.cfg ∧ t.sender = s.sender ∧ t.source = s.source ∧ t.now = s.now ∧
    t.dfc.invFlag = s.dfc.invFlag ∧ t.dfc.faultByte = s.dfc.faultByte ∧
    (s.dfc.st ≠ .idle → s.dfc.st ≠ .recv → t.dfc.n = s.dfc.n) ∧
    (t.dfc.st ≠ .halted → t.dfc.haltCause = s.dfc.haltCause) ∧
    (s.dfc.st ≠ .recv → t.h2d = s.h2d) ∧ (s.dfc.st ≠ .acking → t.d2h = s.d2h) ∧
    ∀ a : Nat,
      (∀ bs : List Byte, s.dfc.st = .recv → s.pending = .rx (.data bs) →
        a < s.dfc.n ∨ s.dfc.n + bs.length ≤ a) →
      Memory.read t.dfc.buf a = Memory.read s.dfc.buf a

/-! ### The halt and reset (spec/60_exceptions.md R196, spec/70_reset_and_hazards.md R230) -/

/-- R196 (D10): the halt entry writes `halt_cause`, `st` and, for an invalid opcode, `inv_flag` and
`fault_byte`, emits `Halt(cause, info)`, and writes nothing else. -/
def Obligations.HaltEntry : Prop :=
  ∀ s : State,
    (∀ c ∈ [HaltCause.rxFault, .txFault, .sinkFault], s.raiseHalt c none = { s with
      dfc := { s.dfc with st := .halted, haltCause := c }, trace := s.trace ++ [.halt c none] }) ∧
    ∀ b : Byte, s.raiseHalt .invalidOpcode (some b) = { s with
      dfc := { s.dfc with st := .halted, haltCause := .invalidOpcode, invFlag := true, faultByte := b },
      trace := s.trace ++ [.halt .invalidOpcode (some b)] }

/-- R129, R198, I7 of R28 (D10): a halted DFC asks for no transaction, and no step but reset changes a
field of it. Its trace stays, bytes on `h2d` stay there and nothing is written to `d2h`. -/
def Obligations.HaltedChangesNothingUntilReset : Prop :=
  ∀ s t : State, s.dfc.st = .halted → s.pending ≠ .rst → step s = .next t →
    s.request = none ∧ t.dfc = s.dfc ∧ t.trace = s.trace ∧ s.h2d <+: t.h2d ∧ t.d2h <:+ s.d2h

/-- R195, R127, R191, R129, R196 (D10): a sink failure is fatal. The frame that failed stays in `buf`; however
long the system then runs without a reset, DFC stays halted with `SINK_FAULT`, and the frame is neither
handed to the sink again nor acknowledged. -/
def Obligations.FailedFrameIsNeitherRetriedNorAcknowledged : Prop :=
  ∀ (s : State) (bs : List Byte) (es more : List Event), s.dfc.st = .applying → s.frame = some bs →
    s.events = .sink .fail :: es ++ more → (∀ e ∈ es, e ≠ .rst) →
    (∃ t : State, step s = .next t ∧ t.dfc.st = .halted ∧ t.dfc.haltCause = .sinkFault ∧ t.frame = some bs) ∧
    ∀ (k : Nat) (t : State), k ≤ es.length → runFor (1 + k) s = .next t →
      t.dfc.st = .halted ∧ t.dfc.haltCause = .sinkFault ∧ t.frame = some bs ∧
      t.trace = s.trace ++ [.halt .sinkFault none] ∧ t.d2h <:+ s.d2h

/-- R230, R231, R234 (D18): `RST`, in any state, gives every field its reset value, `buf` unwritten, and
empties the trace; it does not flush the Transport; and the next transaction is the `Idle` poll. -/
def Obligations.ResetEvent : Prop :=
  ∀ s : State, s.pending = .rst →
    ∃ t : State, step s = .next t ∧ t.dfc.st = .idle ∧ t.dfc.n = 0 ∧
      (∀ a, Memory.read t.dfc.buf a = none) ∧ t.dfc.haltCause = .none ∧ t.dfc.invFlag = false ∧
      t.dfc.faultByte = 0x00#8 ∧ t.trace = [] ∧ t.h2d = s.h2d ∧ t.d2h = s.d2h ∧ t.cfg = s.cfg ∧
      t.sender = s.sender ∧ t.request = some (.rxRead 1)

/-- R33 (D18), R232, and for the equal `FRAME_SIZE` R6, R233: the state after reset. That the queues and the
frame source are empty is the model's choice (assumption 10), and that the two ends have a `FRAME_SIZE`
each, which are equal at reset, is too (assumption 22). -/
def Obligations.ResetState : Prop :=
  State.reset.dfc = { st := .idle, n := 0, buf := [], haltCause := .none, invFlag := false, faultByte := 0x00#8 } ∧
  State.reset.trace = [] ∧ State.reset.request = some (.rxRead 1) ∧
  State.reset.h2d = [] ∧ State.reset.d2h = [] ∧ State.reset.source = [] ∧
  State.reset.cfg.hostFrameSize = State.reset.cfg.frameSize

/-- R31, R24, R191, R21 (D11, D12, D26): STATUS shows the fields, and the numbers of its enumerations are
those of the tables, each in 3 bits. -/
def Obligations.StatusShowsTheFields : Prop :=
  ∀ d : Dfc,
    d.status = { st := d.st, n := d.n, haltCause := d.haltCause, invFlag := d.invFlag, faultByte := d.faultByte } ∧
    d.st.code < 2 ^ 3 ∧ d.haltCause.fault.code < 2 ^ 3 ∧
    [St.idle, .recv, .applying, .acking, .halted].map St.code = [0, 1, 2, 3, 4] ∧
    [HaltCause.none, .invalidOpcode, .rxFault, .txFault, .sinkFault].map (fun c => c.fault.code) = [0, 1, 3, 4, 5]

/-! ### Invariants of DFC (spec/10_state.md R28) -/

/-- R28 at reset. -/
def Obligations.ResetMeetsTheInvariant : Prop := Inv State.reset

/-- R28 (derived by the spec): I1 to I6 and I9 are kept by every step, of any agent and with any answer of
the environment, from every state that has them. -/
def Obligations.EveryStepKeepsTheInvariant : Prop :=
  ∀ s t : State, Inv s → step s = .next t → Inv t

/-- R33, R51, R121: under the invariant no step reads an unwritten element or asks for a read of capacity
0, so the model's two faults are unreachable. -/
def Obligations.NoStepFaultsUnderTheInvariant : Prop :=
  ∀ (s : State) (f : Fault), Inv s → step s ≠ .fault f

/-- R54, R56, R121, R174: when nothing is scripted, every choice of the environment is an outcome of the
transaction asked for: the system always takes a step. (The source keeps its contract, R162.) It is a
property of the model's free choices: they are cut to outcomes (assumption 3), and the turn of a halted DFC
or of an ended Sender only lets time pass (assumption 7). -/
def Obligations.UnscriptedSystemAlwaysSteps : Prop :=
  ∀ s : State, Inv s → SourceWf s → s.events = [] → ∃ t : State, step s = .next t

/-- I8 of R28, R25 (D9): `inv_flag`, once set, stays set until reset, and only an invalid opcode byte read
in `Idle` sets it. -/
def Obligations.InvalidFlagIsSticky : Prop :=
  ∀ s t : State, s.pending ≠ .rst → step s = .next t →
    (s.dfc.invFlag = true → t.dfc.invFlag = true) ∧
    (s.dfc.invFlag = false → t.dfc.invFlag = true →
      s.dfc.st = .idle ∧ ∃ b : Byte, s.pending = .rx (.data [b]) ∧ b ≠ 0x03#8 ∧ b ≠ 0x04#8 ∧ t.dfc.faultByte = b)

/-- R135, R65 O2 and O3 (derived by the spec): there is one ack per applied frame, after it. -/
def Obligations.AcksMatchAppliedFrames : Prop :=
  AcksMatchFrames State.reset ∧ ∀ s t : State, AcksMatchFrames s → step s = .next t → AcksMatchFrames t

/-- R135 (derived by the spec): `d2h` grows only by the byte `0x04`, in the step that goes from `Acking` to
`Idle`. That it does not grow in the step from `Acking` to `Halted`, a failed write, is assumption 9. -/
def Obligations.OnlyAcksReachTheHost : Prop :=
  ∀ s t : State, step s = .next t →
    t.d2h <:+ s.d2h ∨ (s.dfc.st = .acking ∧ t.dfc.st = .idle ∧ t.d2h = s.d2h ++ [0x04#8])

/-- R6, R22, R137 (D20): under the invariant the counter fits in `CNT_W` bits, and `CNT_W` is the least
width that holds every value `0 .. FRAME_SIZE`. -/
def Obligations.CounterFitsItsWidth : Prop :=
  (∀ s : State, Inv s → s.dfc.n < 2 ^ cntW s.cfg.frameSize) ∧
  ∀ F w : Nat, F < 2 ^ w → cntW F ≤ w

/-- R27, R35, R134, R173 (derived by the spec): each agent keeps to its own state. The parameters are
fixed; only a Receiver step or reset changes DFC or its trace; only a Sender step changes the Sender or
what the frame source has still to yield. That only the event of passing time moves the clock is the model's
choice (assumption 12), as is what RST leaves alone (assumption 21), and that the host is never restarted
(assumption 28). -/
def Obligations.AgentsKeepToTheirOwnState : Prop :=
  ∀ s t : State, step s = .next t →
    t.cfg = s.cfg ∧
    (s.pending.ofReceiver = false → s.pending ≠ .rst → t.dfc = s.dfc ∧ t.trace = s.trace) ∧
    (s.pending.ofSender = false → t.sender = s.sender ∧ t.source = s.source) ∧
    ((∀ d, s.pending ≠ .elapse d) → t.now = s.now)

/-! ### A whole message (R131, R132) -/

/-- R132: however the payload is cut into non-empty chunks, the Receiver reaches `Applying` exactly once,
after the last chunk, with the payload in the buffer; then the frame is applied once and acknowledged
once. -/
def Obligations.FragmentedPayloadIsReassembled : Prop :=
  ∀ (s : State) (p rest : List Byte) (chunks : List (List Byte)) (more : List Event),
    s.dfc.st = .idle → p.length = s.cfg.frameSize → 1 ≤ s.cfg.frameSize →
    s.h2d = 0x03#8 :: p ++ rest → (∀ c ∈ chunks, c ≠ []) → chunks.flatten = p →
    s.events = .rx (.data [0x03#8]) :: chunks.map (fun c => .rx (.data c)) ++
      .sink .ok :: .tx (.accepted 1) :: more →
    (∃ t : State, runFor (1 + chunks.length) s = .next t ∧ t.dfc.st = .applying ∧
      t.dfc.n = s.cfg.frameSize ∧ t.frame = some p ∧ t.h2d = rest) ∧
    (∀ (k : Nat) (t : State), k ≤ 3 + chunks.length → k ≠ 1 + chunks.length → runFor k s = .next t →
      t.dfc.st ≠ .applying) ∧
    ∃ t : State, runFor (3 + chunks.length) s = .next t ∧ t.dfc.st = .idle ∧
      t.dfc.n = s.cfg.frameSize ∧ t.frame = some p ∧ t.trace = s.trace ++ .fetch 0x03#8 ::
        storedEvents 0 chunks ++ [.apply p, .ackSent] ∧
      applied t.trace = applied s.trace ++ [p] ∧ acksSent t.trace = acksSent s.trace + 1 ∧
      t.d2h = s.d2h ++ [0x04#8] ∧ t.h2d = rest ∧ t.events = more

/-- R131 (derived by the spec; the empty reads and refused writes rest on D6 and D13): the complete effect
of one FullData message, with any number of polls without data before it, empty reads and polls without
data between the chunks, and refused writes before the ack: what is consumed, stored, applied,
acknowledged and traced, and what is left alone. -/
def Obligations.FullDataMessageRun : Prop :=
  ∀ (s : State) (p rest : List Byte) (polls chunks : List (Option (List Byte))) (last : List Byte) (k : Nat)
    (more : List Event),
    s.dfc.st = .idle → p.length = s.cfg.frameSize → 1 ≤ s.cfg.frameSize →
    s.h2d = 0x03#8 :: p ++ rest → (∀ c ∈ polls, c = none ∨ c = some []) → last ≠ [] →
    (chunks ++ [some last]).flatMap (fun c => c.getD []) = p →
    s.events = polls.map readEvent ++ .rx (.data [0x03#8]) :: (chunks ++ [some last]).map readEvent ++
      .sink .ok :: List.replicate k (.tx (.accepted 0)) ++ .tx (.accepted 1) :: more →
    ∃ t : State, runFor (polls.length + chunks.length + k + 4) s = .next t ∧
      t.dfc.st = .idle ∧ t.dfc.n = s.cfg.frameSize ∧ t.frame = some p ∧
      t.dfc.invFlag = s.dfc.invFlag ∧ t.dfc.faultByte = s.dfc.faultByte ∧
      t.dfc.haltCause = s.dfc.haltCause ∧ t.h2d = rest ∧ t.d2h = s.d2h ++ [0x04#8] ∧ t.events = more ∧
      t.trace = s.trace ++ .fetch 0x03#8 ::
        storedEvents 0 ((chunks ++ [some last]).map fun c => c.getD []) ++ [.apply p, .ackSent]

/-! ### The Sender (spec/42_host_sender.md) -/

/-- R162: a frame is pulled when the Sender is ready for it; a failing source aborts the sequence before a
byte of that frame is written; an exhausted one ends it. That asking is a step of its own, and that `t0` is
the wall time of that step, is the model's choice (assumption 13). -/
def Obligations.FrameSourceIsPulledLazily : Prop :=
  ∀ s : State, s.sender.phase = .ready → s.pending = .hostLocal →
    (∀ p rest, s.source = .frame p :: rest → p.length = s.cfg.hostFrameSize → step s = .next { s with
      source := rest, sender := { s.sender with payload := p, phase := .writeOpcode, t0 := s.now },
      events := s.events.tail, tick := s.tick + 1 }) ∧
    (∀ rest, s.source = .failure :: rest → step s = .next { s with
      sender := { s.sender with phase := .failed .source .sourceFault },
      events := s.events.tail, tick := s.tick + 1 }) ∧
    (s.source = [] → step s = .next { s with
      sender := { s.sender with phase := .done }, events := s.events.tail, tick := s.tick + 1 })

/-- R163 (D24), R164: step 1 writes the byte `0x03`, again after `Accepted(0)`; step 2 waits `GUARD_DELAY`
and changes nothing on the wire. That a failed write appends nothing is assumption 9; the delay as a wall
time that the Sender polls is assumptions 12 and 13. -/
def Obligations.SenderWritesOpcodeThenWaits : Prop :=
  ∀ s : State,
    (s.sender.phase = .writeOpcode →
      (s.pending = .hostTx (.accepted 1) → step s = .next { s with
        h2d := s.h2d ++ [0x03#8],
        sender := { s.sender with phase := .guardDelay (s.now + s.cfg.guardDelay) },
        events := s.events.tail, tick := s.tick + 1 }) ∧
      (s.pending = .hostTx (.accepted 0) → step s = .next { s with
        events := s.events.tail, tick := s.tick + 1 }) ∧
      (s.pending = .hostTx .hardError → step s = .next { s with
        sender := { s.sender with phase := .failed .step1 .transportFault },
        events := s.events.tail, tick := s.tick + 1 })) ∧
    ∀ wake : Nat, s.sender.phase = .guardDelay wake → s.pending = .hostLocal → step s = .next { s with
      sender := { s.sender with phase := if wake ≤ s.now then .writePayload 0 else .guardDelay wake },
      events := s.events.tail, tick := s.tick + 1 }

/-- R165: step 3 writes the rest of the payload until all of it is accepted; a partial write is no error,
a transport fault is. That a failed write appends nothing is assumption 9. The ack wait begins at the wall
time of the step that completes the payload (assumption 15). -/
def Obligations.SenderWritesThePayload : Prop :=
  ∀ (s : State) (m : Nat), s.sender.phase = .writePayload m → m ≤ s.sender.payload.length →
    (∀ k, k ≤ s.sender.payload.length - m → s.pending = .hostTx (.accepted k) → step s = .next { s with
      h2d := s.h2d ++ (s.sender.payload.drop m).take k,
      sender := { s.sender with
        phase := if m + k = s.sender.payload.length then .awaitAck else .writePayload (m + k),
        waitSince := if m + k = s.sender.payload.length then s.now else s.sender.waitSince },
      events := s.events.tail, tick := s.tick + 1 }) ∧
    (s.pending = .hostTx .hardError → step s = .next { s with
      sender := { s.sender with phase := .failed .step3 .transportFault },
      events := s.events.tail, tick := s.tick + 1 })

/-- R166 (D24), R167, R172: step 4 reads one byte, retrying on a timeout and on an empty read without bound
where there is no deadline; in step 5 any byte but `0x04` fails the transfer. What a deadline does is the
model's choice (assumption 15), how many bytes a failed read removes is the environment's (assumption 8), and
that the byte is judged in a step of its own is assumption 13. -/
def Obligations.SenderAwaitsTheAck : Prop :=
  (∀ s : State, s.sender.phase = .awaitAck →
    (s.pending = .hostRx .noData ∨ s.pending = .hostRx (.data []) →
      (s.cfg.ackDeadline = none → step s = .next { s with
        events := s.events.tail, tick := s.tick + 1 }) ∧
      ∀ d, s.cfg.ackDeadline = some d →
        (s.now - s.sender.waitSince < d → step s = .next { s with
          events := s.events.tail, tick := s.tick + 1 }) ∧
        (d ≤ s.now - s.sender.waitSince → step s = .next { s with
          sender := { s.sender with phase := .failed .step4 .ackDeadline },
          events := s.events.tail, tick := s.tick + 1 })) ∧
    (∀ b rest, s.pending = .hostRx (.data [b]) → s.d2h = b :: rest → step s = .next { s with
      d2h := rest, sender := { s.sender with phase := .checkAck b },
      events := s.events.tail, tick := s.tick + 1 }) ∧
    (∀ c, s.pending = .hostRx (.hardError c) → step s = .next { s with
      d2h := s.d2h.drop c, sender := { s.sender with phase := .failed .step4 .transportFault },
      events := s.events.tail, tick := s.tick + 1 })) ∧
  ∀ (s : State) (b : Byte), s.sender.phase = .checkAck b → s.pending = .hostLocal → step s = .next { s with
    sender := { s.sender with
      phase := if b = 0x04#8 then .pace else .failed .step5 .protocolViolation },
    events := s.events.tail, tick := s.tick + 1 }

/-- R168: step 6 sleeps the remainder of the target interval, goes on at once when there is no interval or
it was exceeded, and then takes the next frame, skipping none. That pacing and its sleep are steps of their own,
which poll a wall time, is assumptions 12 and 13, and so is the `t0` that the elapsed time is measured
from. -/
def Obligations.SenderPacesFrames : Prop :=
  (∀ s : State, s.sender.phase = .pace → s.pending = .hostLocal →
    (s.cfg.targetInterval = none → step s = .next { s with
      sender := { s.sender with j := s.sender.j + 1, phase := .ready },
      events := s.events.tail, tick := s.tick + 1 }) ∧
    ∀ d, s.cfg.targetInterval = some d →
      (s.now - s.sender.t0 < d → step s = .next { s with
        sender := { s.sender with phase := .pacingSleep (s.now + (d - (s.now - s.sender.t0))) },
        events := s.events.tail, tick := s.tick + 1 }) ∧
      (d ≤ s.now - s.sender.t0 → step s = .next { s with
        sender := { s.sender with j := s.sender.j + 1, phase := .ready },
        events := s.events.tail, tick := s.tick + 1 })) ∧
  ∀ (s : State) (wake : Nat), s.sender.phase = .pacingSleep wake → s.pending = .hostLocal →
    (wake ≤ s.now → step s = .next { s with
      sender := { s.sender with j := s.sender.j + 1, phase := .ready },
      events := s.events.tail, tick := s.tick + 1 }) ∧
    (s.now < wake → step s = .next { s with events := s.events.tail, tick := s.tick + 1 })

/-- R170: after a failure, and after the last frame, the Sender does nothing more: bytes join `h2d` only
from elsewhere. That the host is never restarted is assumption 28. -/
def Obligations.EndedSenderIsSilent : Prop :=
  ∀ s t : State, s.sender.phase.running = false → step s = .next t →
    t.sender = s.sender ∧ t.source = s.source ∧
    (t.h2d <:+ s.h2d ∨ ∃ bs, s.pending = .inject bs ∧ t.h2d = s.h2d ++ bs)

/-! ### The closed loop (R171, R174 to R176) -/

/-- R174: before the first frame, with both queues empty and DFC as reset leaves it, the invariant of the
closed loop holds. -/
def Obligations.LinkStartsInStep : Prop :=
  ∀ (s : State) (fs : List (List Byte)), 1 ≤ s.cfg.frameSize → s.cfg.hostFrameSize = s.cfg.frameSize →
    (∀ p ∈ fs, p.length = s.cfg.frameSize) → s.dfc = Dfc.reset → s.trace = [] → s.h2d = [] → s.d2h = [] →
    s.sender = Sender.start → s.source = fs.map .frame → LinkInv fs s

/-- R171, R174, O1 to O4 of R65 (under D17): every step of the closed loop keeps it in step, with any
interleaving and any answer of the Transport and the sink, as long as nothing happens that R173 assumes
never to happen. -/
def Obligations.EveryStepKeepsTheLinkInStep : Prop :=
  ∀ (fs : List (List Byte)) (s t : State), LinkInv fs s → s.pending.stray = false → step s = .next t →
    LinkInv fs t

/-- R171: at most one frame is in flight. `d2h` never holds more than one unread ack; while DFC is in
`Recv`, `Applying` or `Acking`, `h2d` holds no byte beyond the current message; and before the opcode of
frame `j` is written, DFC has applied exactly the frames before it and their acks have been read. -/
def Obligations.AtMostOneFrameInFlight : Prop :=
  ∀ (fs : List (List Byte)) (s : State), LinkInv fs s →
    (∀ point cause, s.sender.phase ≠ .failed point cause) →
    s.d2h.length ≤ 1 ∧
    (s.dfc.st = .recv → s.h2d.length ≤ s.cfg.frameSize - s.dfc.n) ∧
    (s.dfc.st = .applying ∨ s.dfc.st = .acking → s.h2d = []) ∧
    (s.sender.phase = .writeOpcode → s.d2h = [] ∧ s.dfc.st ≠ .recv ∧ s.dfc.st ≠ .applying ∧
      s.dfc.st ≠ .acking ∧ applied s.trace = fs.take s.sender.j)

/-- R174 (derived by the spec): for every sequence of frames there is a run in which the Sender is `Done`
in the end, DFC is in `Idle` with the last frame in its buffer, both queues are empty, and the sink has
accepted exactly these frames in order. -/
def Obligations.EveryFrameSequenceCanBeDelivered : Prop :=
  ∀ (s : State) (fs : List (List Byte)), 1 ≤ s.cfg.frameSize → s.cfg.hostFrameSize = s.cfg.frameSize →
    (∀ p ∈ fs, p.length = s.cfg.frameSize) → s.dfc = Dfc.reset → s.trace = [] → s.h2d = [] → s.d2h = [] →
    s.sender = Sender.start → s.source = fs.map .frame →
    ∃ (es : List Event) (t : State), runFor es.length { s with events := es } = .next t ∧
      EndedWell t ∧ applied t.trace = fs ∧ acksSent t.trace = fs.length ∧
      ∀ p, fs.getLast? = some p → t.frame = some p ∧ t.dfc.n = s.cfg.frameSize

/-- R131 under the fairness hypotheses F1 to F4 of R175 (D25): along every run without a fatal answer and
without a reset, a Receiver in `Recv` for which the rest of the frame is queued returns to `Idle` with the
ack sent. -/
def Obligations.FairRunsAcknowledgeTheFrame : Prop :=
  ∀ (es : Nat → Event) (r : Nat → State), IsRun es r → ReceiverFair es r → RxFair es r → TxFair es →
    (∀ k, (es k).fatal = false ∧ es k ≠ .rst) → Inv (r 0) → (r 0).dfc.st = .recv →
    (r 0).cfg.frameSize - (r 0).dfc.n ≤ (r 0).h2d.length →
    ∃ k, (r k).dfc.st = .idle ∧ (r k).trace.getLast? = some .ackSent

/-- R174 under the fairness hypotheses F1 to F5 of R175 (derived by the spec; D25, D17): along every run
of the closed loop without a fatal answer and without what R173 assumes never to happen, and with no ack
deadline (R172), the run ends successfully, with exactly the frames of the source accepted by the sink, in order. -/
def Obligations.FairClosedLoopDeliversEveryFrame : Prop :=
  ∀ (es : Nat → Event) (r : Nat → State) (fs : List (List Byte)),
    IsRun es r → ReceiverFair es r → RxFair es r → TxFair es → HostRxFair es r → HostTxFair es →
    SenderFair es r →
    (∀ k, (es k).fatal = false ∧ (es k).hostFatal = false ∧ (es k).stray = false) →
    (r 0).cfg.ackDeadline = none →
    1 ≤ (r 0).cfg.frameSize → (r 0).cfg.hostFrameSize = (r 0).cfg.frameSize →
    (∀ p ∈ fs, p.length = (r 0).cfg.frameSize) → (r 0).dfc = Dfc.reset → (r 0).trace = [] →
    (r 0).h2d = [] → (r 0).d2h = [] → (r 0).sender = Sender.start → (r 0).source = fs.map .frame →
    ∃ k, EndedWell (r k) ∧ applied (r k).trace = fs

/-- R172, R197, R239: with no ack deadline, a host that waits for an ack of a halted DFC waits for ever.
Until a reset or a transport fault of its own, every step leaves it waiting, with nothing to read. That the host is
never restarted is assumption 28. -/
def Obligations.HostWaitsForeverOnAHaltedDevice : Prop :=
  ∀ s t : State, s.dfc.st = .halted → s.d2h = [] → s.sender.phase = .awaitAck → s.cfg.ackDeadline = none →
    s.pending ≠ .rst → s.pending.hostFatal = false → step s = .next t →
    t.dfc.st = .halted ∧ t.d2h = [] ∧ t.sender.phase = .awaitAck ∧ t.cfg.ackDeadline = none

/-- R239, R176: the hang is permanent. From a hung state every step without a reset, a stray byte or a fatal
answer leads to a hung state; and there always is such a step, so that the model admits the infinite run: the
Sender's read in step 4 that times out, and DFC's poll without data in `Idle` and in `Recv`, each answer a
hung next state. That a halted DFC does not count as hung is the model's reading (assumption 26), and that no
event restarts the Sender, on which the permanence rests, is its choice (assumption 28). -/
def Obligations.HungPairStaysHung : Prop :=
  ∀ s : State, Hung s →
    (∀ t : State, s.pending.stray = false → s.pending.fatal = false → s.pending.hostFatal = false →
      step s = .next t → Hung t) ∧
    (s.sender.phase = .awaitAck → s.pending = .hostRx .noData → ∃ t : State, step s = .next t ∧ Hung t) ∧
    (s.dfc.st = .idle ∨ (s.dfc.st = .recv ∧ s.dfc.n < s.cfg.frameSize) → s.pending = .rx .noData →
      ∃ t : State, step s = .next t ∧ Hung t)
end

