-- ==== Sys2Proof/Laws/Decode.lean ====
section
/-! SUPPORT. Small lemmas about the Codec: what each opcode byte dispatches to, and the first message of a
stream. -/

namespace Sys2Proof

@[simp] theorem opFullData_ne_opCommAck : Config.opFullData ≠ Config.opCommAck := by decide
@[simp] theorem opCommAck_ne_opFullData : Config.opCommAck ≠ Config.opFullData := by decide

/-! ### dispatch (R111) -/

/-- `dispatch` has three answers, by the opcode byte alone (R111). -/
theorem dispatch_eq (F : Nat) (b : Byte) :
    dispatch F b =
      if b = Config.opFullData then .needsPayload
      else if b = Config.opCommAck then .complete .commAck
      else .invalid := by
  unfold dispatch decode
  by_cases h1 : b = Config.opFullData
  · simp [h1]
  · by_cases h2 : b = Config.opCommAck <;> simp [h1, h2]

theorem decodeOpcode_eq (F : Nat) (b : Byte) :
    decodeOpcode F b =
      if b = Config.opFullData then some .fulldata
      else if b = Config.opCommAck then some .commack
      else none := by
  unfold decodeOpcode
  rw [dispatch_eq]
  by_cases h1 : b = Config.opFullData
  · simp [h1]
  · by_cases h2 : b = Config.opCommAck <;> simp [h1, h2]

@[simp] theorem decodeOpcode_opFullData (F : Nat) : decodeOpcode F Config.opFullData = some .fulldata := by
  simp [decodeOpcode_eq]

@[simp] theorem decodeOpcode_opCommAck (F : Nat) : decodeOpcode F Config.opCommAck = some .commack := by
  simp [decodeOpcode_eq]

@[simp] theorem decodeOpcode_encodeOpcode (F : Nat) (i : Instr) : decodeOpcode F (encodeOpcode i) = some i := by
  cases i <;> simp [encodeOpcode]

/-! ### wire (R102 to R104) -/

section
variable {F : Nat}

@[simp] theorem wire_fullData (p : Frame F) : wire (.fullData p) = Config.opFullData :: p.1 := rfl

@[simp] theorem wire_commAck : wire (F := F) .commAck = [Config.opCommAck] := rfl

/-- The opcode byte of a Signal's message is its instruction's (R110, L6). -/
theorem encode_fst (s : Signal F) : (encode s).1 = encodeOpcode s.instr := by cases s <;> rfl

/-- A Signal's message is its instruction's, with its operands (R80). -/
theorem wire_eq_encodeInstr (s : Signal F) : wire s = encodeInstr s.instr s.operands := by cases s <;> rfl

/-! ### Construction (R101) -/

theorem mkFullData_of_length {p : List Byte} (h : p.length = F) :
    mkFullData F p = .ok (.fullData ⟨p, h⟩) := dif_pos h

theorem mkFullData_of_length_ne {p : List Byte} (h : p.length ≠ F) :
    mkFullData F p = .error .badLength := dif_neg h

end

/-! ### The first message of a stream (R87) -/

theorem decodeMessage_opCommAck (F : Nat) (rest : List Byte) :
    decodeMessage F (Config.opCommAck :: rest) = .ok (.commAck, rest) := by
  simp [decodeMessage, dispatch_eq]

theorem decodeMessage_opFullData (F : Nat) (rest : List Byte) :
    decodeMessage F (Config.opFullData :: rest) =
      if h : F ≤ rest.length then .ok (.fullData ⟨rest.take F, List.length_take_of_le h⟩, rest.drop F)
      else .error (.rejected .missingData) := by
  simp only [decodeMessage, dispatch_eq, decode, if_true, List.length_take]
  by_cases h : F ≤ rest.length
  · rw [if_neg (by omega), dif_pos (by omega), dif_pos h]
  · rw [if_pos (by omega), dif_neg h]

theorem decodeMessage_invalid (F : Nat) {b : Byte} (rest : List Byte)
    (h1 : b ≠ Config.opFullData) (h2 : b ≠ Config.opCommAck) :
    decodeMessage F (b :: rest) = .error (.rejected .invalidOpcode) := by
  simp [decodeMessage, dispatch_eq, h1, h2]

end Sys2Proof
end

