-- ==== Sys2Proof/Laws/Memory.lean ====
section
/-! SUPPORT. The laws of the payload buffer: read after write, what a write leaves alone, and that every
operation keeps the canonical form. -/

namespace Sys2Proof.Machine

@[simp] theorem Memory.read_nil (a : Nat) : Memory.read [] a = none := rfl

/-! ### One element -/

theorem Memory.read_write (m : Memory) (a : Nat) (b : Byte) (x : Nat) :
    Memory.read (Memory.write m a b) x = if x = a then some b else Memory.read m x := by
  induction m with
  | nil =>
    simp only [Memory.write, Memory.read]
    by_cases h : x = a
    · rw [if_pos h.symm, if_pos h]
    · rw [if_neg (Ne.symm h), if_neg h]
  | cons c m ih =>
    simp only [Memory.write]
    split
    · simp only [Memory.read]
      by_cases h : x = a
      · rw [if_pos h.symm, if_pos h]
      · rw [if_neg (Ne.symm h), if_neg h]
    · split
      · rename_i hac
        simp only [Memory.read]
        by_cases h : x = a
        · rw [if_pos h.symm, if_pos h]
        · rw [if_neg (Ne.symm h), if_neg h, if_neg (fun e => h (e.symm.trans hac.symm))]
      · rename_i hac
        simp only [Memory.read, ih]
        by_cases h : x = a
        · rw [if_neg (fun e => hac (h.symm.trans e.symm)), if_pos h, if_pos h]
        · rw [if_neg h, if_neg h]

@[simp] theorem Memory.read_write_same (m : Memory) (a : Nat) (b : Byte) :
    Memory.read (Memory.write m a b) a = some b := by simp [Memory.read_write]

theorem Memory.read_write_ne (m : Memory) {a x : Nat} (b : Byte) (h : x ≠ a) :
    Memory.read (Memory.write m a b) x = Memory.read m x := by simp [Memory.read_write, h]

/-! ### The canonical form -/

@[simp] theorem Memory.wf_nil : Memory.wf [] := List.Pairwise.nil

theorem Memory.mem_write {m : Memory} {a : Nat} {b : Byte} {c : Host.Cell}
    (h : c ∈ Memory.write m a b) : c = (a, b) ∨ c ∈ m := by
  induction m with
  | nil => simp_all [Memory.write]
  | cons d m ih =>
    simp only [Memory.write] at h
    split at h
    · simpa using h
    · split at h
      · rcases List.mem_cons.1 h with h | h
        · exact .inl h
        · exact .inr (List.mem_cons_of_mem _ h)
      · rcases List.mem_cons.1 h with h | h
        · exact .inr (h ▸ List.mem_cons_self)
        · exact (ih h).imp id (List.mem_cons_of_mem _)

theorem Memory.wf_write {m : Memory} (h : Memory.wf m) (a : Nat) (b : Byte) :
    Memory.wf (Memory.write m a b) := by
  induction m with
  | nil => simp [Memory.write, Memory.wf]
  | cons c m ih =>
    have ⟨hc, hm⟩ := List.pairwise_cons.1 h
    simp only [Memory.write]
    split
    · rename_i hlt
      refine List.pairwise_cons.2 ⟨fun d hd => ?_, h⟩
      rcases List.mem_cons.1 hd with rfl | hd
      · exact hlt
      · exact hlt.trans (hc d hd)
    · split
      · rename_i heq
        exact List.pairwise_cons.2 ⟨fun d hd => heq ▸ hc d hd, hm⟩
      · rename_i h1 h2
        refine List.pairwise_cons.2 ⟨fun d hd => ?_, ih hm⟩
        rcases Memory.mem_write hd with rfl | hd
        · show c.1 < a; omega
        · exact hc d hd

theorem Memory.wf_writeBytes {m : Memory} (h : Memory.wf m) (off : Nat) (bs : List Byte) :
    Memory.wf (Memory.writeBytes m off bs) := by
  induction bs generalizing m off with
  | nil => exact h
  | cons b bs ih => exact ih (Memory.wf_write h off b) (off + 1)

/-! ### A run of elements -/

/-- What every element reads as after a write of a run of bytes. -/
theorem Memory.read_writeBytes (m : Memory) (off : Nat) (bs : List Byte) (x : Nat) :
    Memory.read (Memory.writeBytes m off bs) x =
      if off ≤ x ∧ x < off + bs.length then bs[x - off]? else Memory.read m x := by
  induction bs generalizing m off with
  | nil => exact (if_neg (by simp only [List.length_nil]; omega)).symm
  | cons b bs ih =>
    simp only [Memory.writeBytes, ih, Memory.read_write, List.length_cons]
    rcases Nat.lt_trichotomy x off with h | h | h
    · rw [if_neg (by omega), if_neg (by omega), if_neg (by omega)]
    · subst h; rw [if_neg (by omega), if_pos rfl, if_pos (by omega)]; simp
    · have e : x - off = (x - (off + 1)) + 1 := by omega
      by_cases h2 : x < off + (bs.length + 1)
      · rw [if_pos (by omega), if_pos (by omega), e, List.getElem?_cons_succ]
      · rw [if_neg (by omega), if_neg (by omega), if_neg (by omega)]

/-- A run reads as `bs` exactly when each of its elements does. -/
theorem Memory.readBytes_eq_some {m : Memory} {off k : Nat} {bs : List Byte} :
    Memory.readBytes m off k = some bs ↔
      bs.length = k ∧ ∀ i, i < k → Memory.read m (off + i) = bs[i]? := by
  induction k generalizing off bs with
  | zero =>
    simp only [Memory.readBytes, Option.some.injEq]
    exact ⟨fun h => ⟨h ▸ rfl, fun i h => absurd h (Nat.not_lt_zero i)⟩,
      fun h => (List.eq_nil_of_length_eq_zero h.1).symm⟩
  | succ k ih =>
    simp only [Memory.readBytes]
    constructor
    · intro h
      split at h
      · rename_i b cs hb hcs
        cases h
        have ⟨hl, hr⟩ := ih.1 hcs
        refine ⟨by simp [hl], fun i hi => ?_⟩
        cases i with
        | zero => simpa using hb
        | succ i => simpa [Nat.add_assoc, Nat.add_comm 1 i] using hr i (by omega)
      · cases h
    · rintro ⟨hl, hr⟩
      cases bs with
      | nil => simp at hl
      | cons b cs =>
        have hb : Memory.read m off = some b := by simpa using hr 0 (by omega)
        have hcs : Memory.readBytes m (off + 1) k = some cs :=
          ih.2 ⟨by simpa using hl, fun i hi => by
            simpa [Nat.add_assoc, Nat.add_comm 1 i] using hr (i + 1) (by omega)⟩
        simp [hb, hcs]

theorem Memory.readBytes_length {m : Memory} {off k : Nat} {bs : List Byte}
    (h : Memory.readBytes m off k = some bs) : bs.length = k := (Memory.readBytes_eq_some.1 h).1

/-- A run that grows at its end by what was written there (I4 of R28). -/
theorem Memory.readBytes_writeBytes_append {m : Memory} {n : Nat} {p bs : List Byte}
    (h : Memory.readBytes m 0 n = some p) :
    Memory.readBytes (Memory.writeBytes m n bs) 0 (n + bs.length) = some (p ++ bs) := by
  have ⟨hl, hr⟩ := Memory.readBytes_eq_some.1 h
  refine Memory.readBytes_eq_some.2 ⟨by simp [hl], fun i hi => ?_⟩
  rw [Memory.read_writeBytes]
  by_cases h1 : i < n
  · rw [if_neg (by omega), hr i h1, List.getElem?_append_left (by omega)]
  · rw [if_pos (by omega), List.getElem?_append_right (by omega), hl]; congr 1; omega

/-- A write of no bytes. -/
@[simp] theorem Memory.writeBytes_nil (m : Memory) (off : Nat) : Memory.writeBytes m off [] = m := rfl

@[simp] theorem Memory.readBytes_zero (m : Memory) (off : Nat) : Memory.readBytes m off 0 = some [] := rfl

end Sys2Proof.Machine
end

