-- ==== Sys2Proof/Laws/State.lean ====
section
/-! SUPPORT. One lemma per field per update of the state, so that no proof unfolds a record update. -/

namespace Sys2Proof.Machine

variable (s : State)

/-! ### `setSt` -/

@[simp] theorem State.setSt_cfg (v : St) : (s.setSt v).cfg = s.cfg := rfl
@[simp] theorem State.setSt_dfc_st (v : St) : (s.setSt v).dfc.st = v := rfl
@[simp] theorem State.setSt_dfc_n (v : St) : (s.setSt v).dfc.n = s.dfc.n := rfl
@[simp] theorem State.setSt_dfc_buf (v : St) : (s.setSt v).dfc.buf = s.dfc.buf := rfl
@[simp] theorem State.setSt_dfc_haltCause (v : St) : (s.setSt v).dfc.haltCause = s.dfc.haltCause := rfl
@[simp] theorem State.setSt_dfc_invFlag (v : St) : (s.setSt v).dfc.invFlag = s.dfc.invFlag := rfl
@[simp] theorem State.setSt_dfc_faultByte (v : St) : (s.setSt v).dfc.faultByte = s.dfc.faultByte := rfl
@[simp] theorem State.setSt_trace (v : St) : (s.setSt v).trace = s.trace := rfl
@[simp] theorem State.setSt_h2d (v : St) : (s.setSt v).h2d = s.h2d := rfl
@[simp] theorem State.setSt_d2h (v : St) : (s.setSt v).d2h = s.d2h := rfl
@[simp] theorem State.setSt_sender (v : St) : (s.setSt v).sender = s.sender := rfl
@[simp] theorem State.setSt_source (v : St) : (s.setSt v).source = s.source := rfl
@[simp] theorem State.setSt_now (v : St) : (s.setSt v).now = s.now := rfl
@[simp] theorem State.setSt_events (v : St) : (s.setSt v).events = s.events := rfl
@[simp] theorem State.setSt_tick (v : St) : (s.setSt v).tick = s.tick := rfl

/-! ### `setN` -/

@[simp] theorem State.setN_cfg (v : Nat) : (s.setN v).cfg = s.cfg := rfl
@[simp] theorem State.setN_dfc_st (v : Nat) : (s.setN v).dfc.st = s.dfc.st := rfl
@[simp] theorem State.setN_dfc_n (v : Nat) : (s.setN v).dfc.n = v := rfl
@[simp] theorem State.setN_dfc_buf (v : Nat) : (s.setN v).dfc.buf = s.dfc.buf := rfl
@[simp] theorem State.setN_dfc_haltCause (v : Nat) : (s.setN v).dfc.haltCause = s.dfc.haltCause := rfl
@[simp] theorem State.setN_dfc_invFlag (v : Nat) : (s.setN v).dfc.invFlag = s.dfc.invFlag := rfl
@[simp] theorem State.setN_dfc_faultByte (v : Nat) : (s.setN v).dfc.faultByte = s.dfc.faultByte := rfl
@[simp] theorem State.setN_trace (v : Nat) : (s.setN v).trace = s.trace := rfl
@[simp] theorem State.setN_h2d (v : Nat) : (s.setN v).h2d = s.h2d := rfl
@[simp] theorem State.setN_d2h (v : Nat) : (s.setN v).d2h = s.d2h := rfl
@[simp] theorem State.setN_sender (v : Nat) : (s.setN v).sender = s.sender := rfl
@[simp] theorem State.setN_source (v : Nat) : (s.setN v).source = s.source := rfl
@[simp] theorem State.setN_now (v : Nat) : (s.setN v).now = s.now := rfl
@[simp] theorem State.setN_events (v : Nat) : (s.setN v).events = s.events := rfl
@[simp] theorem State.setN_tick (v : Nat) : (s.setN v).tick = s.tick := rfl

/-! ### `writeBuf` -/

@[simp] theorem State.writeBuf_cfg (off : Nat) (bs : List Byte) : (s.writeBuf off bs).cfg = s.cfg := rfl
@[simp] theorem State.writeBuf_dfc_st (off : Nat) (bs : List Byte) : (s.writeBuf off bs).dfc.st = s.dfc.st := rfl
@[simp] theorem State.writeBuf_dfc_n (off : Nat) (bs : List Byte) : (s.writeBuf off bs).dfc.n = s.dfc.n := rfl
@[simp] theorem State.writeBuf_dfc_buf (off : Nat) (bs : List Byte) : (s.writeBuf off bs).dfc.buf = Memory.writeBytes s.dfc.buf off bs := rfl
@[simp] theorem State.writeBuf_dfc_haltCause (off : Nat) (bs : List Byte) : (s.writeBuf off bs).dfc.haltCause = s.dfc.haltCause := rfl
@[simp] theorem State.writeBuf_dfc_invFlag (off : Nat) (bs : List Byte) : (s.writeBuf off bs).dfc.invFlag = s.dfc.invFlag := rfl
@[simp] theorem State.writeBuf_dfc_faultByte (off : Nat) (bs : List Byte) : (s.writeBuf off bs).dfc.faultByte = s.dfc.faultByte := rfl
@[simp] theorem State.writeBuf_trace (off : Nat) (bs : List Byte) : (s.writeBuf off bs).trace = s.trace := rfl
@[simp] theorem State.writeBuf_h2d (off : Nat) (bs : List Byte) : (s.writeBuf off bs).h2d = s.h2d := rfl
@[simp] theorem State.writeBuf_d2h (off : Nat) (bs : List Byte) : (s.writeBuf off bs).d2h = s.d2h := rfl
@[simp] theorem State.writeBuf_sender (off : Nat) (bs : List Byte) : (s.writeBuf off bs).sender = s.sender := rfl
@[simp] theorem State.writeBuf_source (off : Nat) (bs : List Byte) : (s.writeBuf off bs).source = s.source := rfl
@[simp] theorem State.writeBuf_now (off : Nat) (bs : List Byte) : (s.writeBuf off bs).now = s.now := rfl
@[simp] theorem State.writeBuf_events (off : Nat) (bs : List Byte) : (s.writeBuf off bs).events = s.events := rfl
@[simp] theorem State.writeBuf_tick (off : Nat) (bs : List Byte) : (s.writeBuf off bs).tick = s.tick := rfl

/-! ### `setHaltCause` -/

@[simp] theorem State.setHaltCause_cfg (c : HaltCause) : (s.setHaltCause c).cfg = s.cfg := rfl
@[simp] theorem State.setHaltCause_dfc_st (c : HaltCause) : (s.setHaltCause c).dfc.st = s.dfc.st := rfl
@[simp] theorem State.setHaltCause_dfc_n (c : HaltCause) : (s.setHaltCause c).dfc.n = s.dfc.n := rfl
@[simp] theorem State.setHaltCause_dfc_buf (c : HaltCause) : (s.setHaltCause c).dfc.buf = s.dfc.buf := rfl
@[simp] theorem State.setHaltCause_dfc_haltCause (c : HaltCause) : (s.setHaltCause c).dfc.haltCause = c := rfl
@[simp] theorem State.setHaltCause_dfc_invFlag (c : HaltCause) : (s.setHaltCause c).dfc.invFlag = s.dfc.invFlag := rfl
@[simp] theorem State.setHaltCause_dfc_faultByte (c : HaltCause) : (s.setHaltCause c).dfc.faultByte = s.dfc.faultByte := rfl
@[simp] theorem State.setHaltCause_trace (c : HaltCause) : (s.setHaltCause c).trace = s.trace := rfl
@[simp] theorem State.setHaltCause_h2d (c : HaltCause) : (s.setHaltCause c).h2d = s.h2d := rfl
@[simp] theorem State.setHaltCause_d2h (c : HaltCause) : (s.setHaltCause c).d2h = s.d2h := rfl
@[simp] theorem State.setHaltCause_sender (c : HaltCause) : (s.setHaltCause c).sender = s.sender := rfl
@[simp] theorem State.setHaltCause_source (c : HaltCause) : (s.setHaltCause c).source = s.source := rfl
@[simp] theorem State.setHaltCause_now (c : HaltCause) : (s.setHaltCause c).now = s.now := rfl
@[simp] theorem State.setHaltCause_events (c : HaltCause) : (s.setHaltCause c).events = s.events := rfl
@[simp] theorem State.setHaltCause_tick (c : HaltCause) : (s.setHaltCause c).tick = s.tick := rfl

/-! ### `recordInvalid` -/

@[simp] theorem State.recordInvalid_cfg (b : Byte) : (s.recordInvalid b).cfg = s.cfg := rfl
@[simp] theorem State.recordInvalid_dfc_st (b : Byte) : (s.recordInvalid b).dfc.st = s.dfc.st := rfl
@[simp] theorem State.recordInvalid_dfc_n (b : Byte) : (s.recordInvalid b).dfc.n = s.dfc.n := rfl
@[simp] theorem State.recordInvalid_dfc_buf (b : Byte) : (s.recordInvalid b).dfc.buf = s.dfc.buf := rfl
@[simp] theorem State.recordInvalid_dfc_haltCause (b : Byte) : (s.recordInvalid b).dfc.haltCause = s.dfc.haltCause := rfl
@[simp] theorem State.recordInvalid_dfc_invFlag (b : Byte) : (s.recordInvalid b).dfc.invFlag = true := rfl
@[simp] theorem State.recordInvalid_dfc_faultByte (b : Byte) : (s.recordInvalid b).dfc.faultByte = b := rfl
@[simp] theorem State.recordInvalid_trace (b : Byte) : (s.recordInvalid b).trace = s.trace := rfl
@[simp] theorem State.recordInvalid_h2d (b : Byte) : (s.recordInvalid b).h2d = s.h2d := rfl
@[simp] theorem State.recordInvalid_d2h (b : Byte) : (s.recordInvalid b).d2h = s.d2h := rfl
@[simp] theorem State.recordInvalid_sender (b : Byte) : (s.recordInvalid b).sender = s.sender := rfl
@[simp] theorem State.recordInvalid_source (b : Byte) : (s.recordInvalid b).source = s.source := rfl
@[simp] theorem State.recordInvalid_now (b : Byte) : (s.recordInvalid b).now = s.now := rfl
@[simp] theorem State.recordInvalid_events (b : Byte) : (s.recordInvalid b).events = s.events := rfl
@[simp] theorem State.recordInvalid_tick (b : Byte) : (s.recordInvalid b).tick = s.tick := rfl

/-! ### `emit` -/

@[simp] theorem State.emit_cfg (e : TraceEvent) : (s.emit e).cfg = s.cfg := rfl
@[simp] theorem State.emit_dfc (e : TraceEvent) : (s.emit e).dfc = s.dfc := rfl
@[simp] theorem State.emit_trace (e : TraceEvent) : (s.emit e).trace = s.trace ++ [e] := rfl
@[simp] theorem State.emit_h2d (e : TraceEvent) : (s.emit e).h2d = s.h2d := rfl
@[simp] theorem State.emit_d2h (e : TraceEvent) : (s.emit e).d2h = s.d2h := rfl
@[simp] theorem State.emit_sender (e : TraceEvent) : (s.emit e).sender = s.sender := rfl
@[simp] theorem State.emit_source (e : TraceEvent) : (s.emit e).source = s.source := rfl
@[simp] theorem State.emit_now (e : TraceEvent) : (s.emit e).now = s.now := rfl
@[simp] theorem State.emit_events (e : TraceEvent) : (s.emit e).events = s.events := rfl
@[simp] theorem State.emit_tick (e : TraceEvent) : (s.emit e).tick = s.tick := rfl

/-! ### `advance` -/

@[simp] theorem State.advance_cfg : s.advance.cfg = s.cfg := rfl
@[simp] theorem State.advance_dfc : s.advance.dfc = s.dfc := rfl
@[simp] theorem State.advance_trace : s.advance.trace = s.trace := rfl
@[simp] theorem State.advance_h2d : s.advance.h2d = s.h2d := rfl
@[simp] theorem State.advance_d2h : s.advance.d2h = s.d2h := rfl
@[simp] theorem State.advance_sender : s.advance.sender = s.sender := rfl
@[simp] theorem State.advance_source : s.advance.source = s.source := rfl
@[simp] theorem State.advance_now : s.advance.now = s.now := rfl
@[simp] theorem State.advance_events : s.advance.events = s.events.tail := rfl
@[simp] theorem State.advance_tick : s.advance.tick = s.tick + 1 := rfl

/-! ### `popH2d` -/

@[simp] theorem State.popH2d_cfg (k : Nat) : (s.popH2d k).cfg = s.cfg := rfl
@[simp] theorem State.popH2d_dfc (k : Nat) : (s.popH2d k).dfc = s.dfc := rfl
@[simp] theorem State.popH2d_trace (k : Nat) : (s.popH2d k).trace = s.trace := rfl
@[simp] theorem State.popH2d_h2d (k : Nat) : (s.popH2d k).h2d = s.h2d.drop k := rfl
@[simp] theorem State.popH2d_d2h (k : Nat) : (s.popH2d k).d2h = s.d2h := rfl
@[simp] theorem State.popH2d_sender (k : Nat) : (s.popH2d k).sender = s.sender := rfl
@[simp] theorem State.popH2d_source (k : Nat) : (s.popH2d k).source = s.source := rfl
@[simp] theorem State.popH2d_now (k : Nat) : (s.popH2d k).now = s.now := rfl
@[simp] theorem State.popH2d_events (k : Nat) : (s.popH2d k).events = s.events := rfl
@[simp] theorem State.popH2d_tick (k : Nat) : (s.popH2d k).tick = s.tick := rfl

/-! ### `pushH2d` -/

@[simp] theorem State.pushH2d_cfg (bs : List Byte) : (s.pushH2d bs).cfg = s.cfg := rfl
@[simp] theorem State.pushH2d_dfc (bs : List Byte) : (s.pushH2d bs).dfc = s.dfc := rfl
@[simp] theorem State.pushH2d_trace (bs : List Byte) : (s.pushH2d bs).trace = s.trace := rfl
@[simp] theorem State.pushH2d_h2d (bs : List Byte) : (s.pushH2d bs).h2d = s.h2d ++ bs := rfl
@[simp] theorem State.pushH2d_d2h (bs : List Byte) : (s.pushH2d bs).d2h = s.d2h := rfl
@[simp] theorem State.pushH2d_sender (bs : List Byte) : (s.pushH2d bs).sender = s.sender := rfl
@[simp] theorem State.pushH2d_source (bs : List Byte) : (s.pushH2d bs).source = s.source := rfl
@[simp] theorem State.pushH2d_now (bs : List Byte) : (s.pushH2d bs).now = s.now := rfl
@[simp] theorem State.pushH2d_events (bs : List Byte) : (s.pushH2d bs).events = s.events := rfl
@[simp] theorem State.pushH2d_tick (bs : List Byte) : (s.pushH2d bs).tick = s.tick := rfl

/-! ### `popD2h` -/

@[simp] theorem State.popD2h_cfg (k : Nat) : (s.popD2h k).cfg = s.cfg := rfl
@[simp] theorem State.popD2h_dfc (k : Nat) : (s.popD2h k).dfc = s.dfc := rfl
@[simp] theorem State.popD2h_trace (k : Nat) : (s.popD2h k).trace = s.trace := rfl
@[simp] theorem State.popD2h_h2d (k : Nat) : (s.popD2h k).h2d = s.h2d := rfl
@[simp] theorem State.popD2h_d2h (k : Nat) : (s.popD2h k).d2h = s.d2h.drop k := rfl
@[simp] theorem State.popD2h_sender (k : Nat) : (s.popD2h k).sender = s.sender := rfl
@[simp] theorem State.popD2h_source (k : Nat) : (s.popD2h k).source = s.source := rfl
@[simp] theorem State.popD2h_now (k : Nat) : (s.popD2h k).now = s.now := rfl
@[simp] theorem State.popD2h_events (k : Nat) : (s.popD2h k).events = s.events := rfl
@[simp] theorem State.popD2h_tick (k : Nat) : (s.popD2h k).tick = s.tick := rfl

/-! ### `pushD2h` -/

@[simp] theorem State.pushD2h_cfg (bs : List Byte) : (s.pushD2h bs).cfg = s.cfg := rfl
@[simp] theorem State.pushD2h_dfc (bs : List Byte) : (s.pushD2h bs).dfc = s.dfc := rfl
@[simp] theorem State.pushD2h_trace (bs : List Byte) : (s.pushD2h bs).trace = s.trace := rfl
@[simp] theorem State.pushD2h_h2d (bs : List Byte) : (s.pushD2h bs).h2d = s.h2d := rfl
@[simp] theorem State.pushD2h_d2h (bs : List Byte) : (s.pushD2h bs).d2h = s.d2h ++ bs := rfl
@[simp] theorem State.pushD2h_sender (bs : List Byte) : (s.pushD2h bs).sender = s.sender := rfl
@[simp] theorem State.pushD2h_source (bs : List Byte) : (s.pushD2h bs).source = s.source := rfl
@[simp] theorem State.pushD2h_now (bs : List Byte) : (s.pushD2h bs).now = s.now := rfl
@[simp] theorem State.pushD2h_events (bs : List Byte) : (s.pushD2h bs).events = s.events := rfl
@[simp] theorem State.pushD2h_tick (bs : List Byte) : (s.pushD2h bs).tick = s.tick := rfl

/-! ### `passTime` -/

@[simp] theorem State.passTime_cfg (d : Nat) : (s.passTime d).cfg = s.cfg := rfl
@[simp] theorem State.passTime_dfc (d : Nat) : (s.passTime d).dfc = s.dfc := rfl
@[simp] theorem State.passTime_trace (d : Nat) : (s.passTime d).trace = s.trace := rfl
@[simp] theorem State.passTime_h2d (d : Nat) : (s.passTime d).h2d = s.h2d := rfl
@[simp] theorem State.passTime_d2h (d : Nat) : (s.passTime d).d2h = s.d2h := rfl
@[simp] theorem State.passTime_sender (d : Nat) : (s.passTime d).sender = s.sender := rfl
@[simp] theorem State.passTime_source (d : Nat) : (s.passTime d).source = s.source := rfl
@[simp] theorem State.passTime_now (d : Nat) : (s.passTime d).now = s.now + d := rfl
@[simp] theorem State.passTime_events (d : Nat) : (s.passTime d).events = s.events := rfl
@[simp] theorem State.passTime_tick (d : Nat) : (s.passTime d).tick = s.tick := rfl

/-! ### `rst` -/

@[simp] theorem State.rst_cfg : s.rst.cfg = s.cfg := rfl
@[simp] theorem State.rst_dfc : s.rst.dfc = Dfc.reset := rfl
@[simp] theorem State.rst_trace : s.rst.trace = [] := rfl
@[simp] theorem State.rst_h2d : s.rst.h2d = s.h2d := rfl
@[simp] theorem State.rst_d2h : s.rst.d2h = s.d2h := rfl
@[simp] theorem State.rst_sender : s.rst.sender = s.sender := rfl
@[simp] theorem State.rst_source : s.rst.source = s.source := rfl
@[simp] theorem State.rst_now : s.rst.now = s.now := rfl
@[simp] theorem State.rst_events : s.rst.events = s.events := rfl
@[simp] theorem State.rst_tick : s.rst.tick = s.tick := rfl

/-! ### `setPhase` -/

@[simp] theorem State.setPhase_cfg (p : Phase) : (s.setPhase p).cfg = s.cfg := rfl
@[simp] theorem State.setPhase_dfc (p : Phase) : (s.setPhase p).dfc = s.dfc := rfl
@[simp] theorem State.setPhase_trace (p : Phase) : (s.setPhase p).trace = s.trace := rfl
@[simp] theorem State.setPhase_h2d (p : Phase) : (s.setPhase p).h2d = s.h2d := rfl
@[simp] theorem State.setPhase_d2h (p : Phase) : (s.setPhase p).d2h = s.d2h := rfl
@[simp] theorem State.setPhase_sender_j (p : Phase) : (s.setPhase p).sender.j = s.sender.j := rfl
@[simp] theorem State.setPhase_sender_payload (p : Phase) : (s.setPhase p).sender.payload = s.sender.payload := rfl
@[simp] theorem State.setPhase_sender_phase (p : Phase) : (s.setPhase p).sender.phase = p := rfl
@[simp] theorem State.setPhase_sender_t0 (p : Phase) : (s.setPhase p).sender.t0 = s.sender.t0 := rfl
@[simp] theorem State.setPhase_sender_waitSince (p : Phase) : (s.setPhase p).sender.waitSince = s.sender.waitSince := rfl
@[simp] theorem State.setPhase_source (p : Phase) : (s.setPhase p).source = s.source := rfl
@[simp] theorem State.setPhase_now (p : Phase) : (s.setPhase p).now = s.now := rfl
@[simp] theorem State.setPhase_events (p : Phase) : (s.setPhase p).events = s.events := rfl
@[simp] theorem State.setPhase_tick (p : Phase) : (s.setPhase p).tick = s.tick := rfl

/-! ### `failTransfer` -/

@[simp] theorem State.failTransfer_cfg (pt : FailPoint) (c : FailCause) : (s.failTransfer pt c).cfg = s.cfg := rfl
@[simp] theorem State.failTransfer_dfc (pt : FailPoint) (c : FailCause) : (s.failTransfer pt c).dfc = s.dfc := rfl
@[simp] theorem State.failTransfer_trace (pt : FailPoint) (c : FailCause) : (s.failTransfer pt c).trace = s.trace := rfl
@[simp] theorem State.failTransfer_h2d (pt : FailPoint) (c : FailCause) : (s.failTransfer pt c).h2d = s.h2d := rfl
@[simp] theorem State.failTransfer_d2h (pt : FailPoint) (c : FailCause) : (s.failTransfer pt c).d2h = s.d2h := rfl
@[simp] theorem State.failTransfer_sender_j (pt : FailPoint) (c : FailCause) : (s.failTransfer pt c).sender.j = s.sender.j := rfl
@[simp] theorem State.failTransfer_sender_payload (pt : FailPoint) (c : FailCause) : (s.failTransfer pt c).sender.payload = s.sender.payload := rfl
@[simp] theorem State.failTransfer_sender_phase (pt : FailPoint) (c : FailCause) : (s.failTransfer pt c).sender.phase = .failed pt c := rfl
@[simp] theorem State.failTransfer_sender_t0 (pt : FailPoint) (c : FailCause) : (s.failTransfer pt c).sender.t0 = s.sender.t0 := rfl
@[simp] theorem State.failTransfer_sender_waitSince (pt : FailPoint) (c : FailCause) : (s.failTransfer pt c).sender.waitSince = s.sender.waitSince := rfl
@[simp] theorem State.failTransfer_source (pt : FailPoint) (c : FailCause) : (s.failTransfer pt c).source = s.source := rfl
@[simp] theorem State.failTransfer_now (pt : FailPoint) (c : FailCause) : (s.failTransfer pt c).now = s.now := rfl
@[simp] theorem State.failTransfer_events (pt : FailPoint) (c : FailCause) : (s.failTransfer pt c).events = s.events := rfl
@[simp] theorem State.failTransfer_tick (pt : FailPoint) (c : FailCause) : (s.failTransfer pt c).tick = s.tick := rfl

/-! ### `beginFrame` -/

@[simp] theorem State.beginFrame_cfg (p : List Byte) (r : List SourceItem) : (s.beginFrame p r).cfg = s.cfg := rfl
@[simp] theorem State.beginFrame_dfc (p : List Byte) (r : List SourceItem) : (s.beginFrame p r).dfc = s.dfc := rfl
@[simp] theorem State.beginFrame_trace (p : List Byte) (r : List SourceItem) : (s.beginFrame p r).trace = s.trace := rfl
@[simp] theorem State.beginFrame_h2d (p : List Byte) (r : List SourceItem) : (s.beginFrame p r).h2d = s.h2d := rfl
@[simp] theorem State.beginFrame_d2h (p : List Byte) (r : List SourceItem) : (s.beginFrame p r).d2h = s.d2h := rfl
@[simp] theorem State.beginFrame_sender_j (p : List Byte) (r : List SourceItem) : (s.beginFrame p r).sender.j = s.sender.j := rfl
@[simp] theorem State.beginFrame_sender_payload (p : List Byte) (r : List SourceItem) : (s.beginFrame p r).sender.payload = p := rfl
@[simp] theorem State.beginFrame_sender_phase (p : List Byte) (r : List SourceItem) : (s.beginFrame p r).sender.phase = .writeOpcode := rfl
@[simp] theorem State.beginFrame_sender_t0 (p : List Byte) (r : List SourceItem) : (s.beginFrame p r).sender.t0 = s.now := rfl
@[simp] theorem State.beginFrame_sender_waitSince (p : List Byte) (r : List SourceItem) : (s.beginFrame p r).sender.waitSince = s.sender.waitSince := rfl
@[simp] theorem State.beginFrame_source (p : List Byte) (r : List SourceItem) : (s.beginFrame p r).source = r := rfl
@[simp] theorem State.beginFrame_now (p : List Byte) (r : List SourceItem) : (s.beginFrame p r).now = s.now := rfl
@[simp] theorem State.beginFrame_events (p : List Byte) (r : List SourceItem) : (s.beginFrame p r).events = s.events := rfl
@[simp] theorem State.beginFrame_tick (p : List Byte) (r : List SourceItem) : (s.beginFrame p r).tick = s.tick := rfl

/-! ### `beginAckWait` -/

@[simp] theorem State.beginAckWait_cfg : s.beginAckWait.cfg = s.cfg := rfl
@[simp] theorem State.beginAckWait_dfc : s.beginAckWait.dfc = s.dfc := rfl
@[simp] theorem State.beginAckWait_trace : s.beginAckWait.trace = s.trace := rfl
@[simp] theorem State.beginAckWait_h2d : s.beginAckWait.h2d = s.h2d := rfl
@[simp] theorem State.beginAckWait_d2h : s.beginAckWait.d2h = s.d2h := rfl
@[simp] theorem State.beginAckWait_sender_j : s.beginAckWait.sender.j = s.sender.j := rfl
@[simp] theorem State.beginAckWait_sender_payload : s.beginAckWait.sender.payload = s.sender.payload := rfl
@[simp] theorem State.beginAckWait_sender_phase : s.beginAckWait.sender.phase = .awaitAck := rfl
@[simp] theorem State.beginAckWait_sender_t0 : s.beginAckWait.sender.t0 = s.sender.t0 := rfl
@[simp] theorem State.beginAckWait_sender_waitSince : s.beginAckWait.sender.waitSince = s.now := rfl
@[simp] theorem State.beginAckWait_source : s.beginAckWait.source = s.source := rfl
@[simp] theorem State.beginAckWait_now : s.beginAckWait.now = s.now := rfl
@[simp] theorem State.beginAckWait_events : s.beginAckWait.events = s.events := rfl
@[simp] theorem State.beginAckWait_tick : s.beginAckWait.tick = s.tick := rfl

/-! ### `nextFrame` -/

@[simp] theorem State.nextFrame_cfg : s.nextFrame.cfg = s.cfg := rfl
@[simp] theorem State.nextFrame_dfc : s.nextFrame.dfc = s.dfc := rfl
@[simp] theorem State.nextFrame_trace : s.nextFrame.trace = s.trace := rfl
@[simp] theorem State.nextFrame_h2d : s.nextFrame.h2d = s.h2d := rfl
@[simp] theorem State.nextFrame_d2h : s.nextFrame.d2h = s.d2h := rfl
@[simp] theorem State.nextFrame_sender_j : s.nextFrame.sender.j = s.sender.j + 1 := rfl
@[simp] theorem State.nextFrame_sender_payload : s.nextFrame.sender.payload = s.sender.payload := rfl
@[simp] theorem State.nextFrame_sender_phase : s.nextFrame.sender.phase = .ready := rfl
@[simp] theorem State.nextFrame_sender_t0 : s.nextFrame.sender.t0 = s.sender.t0 := rfl
@[simp] theorem State.nextFrame_sender_waitSince : s.nextFrame.sender.waitSince = s.sender.waitSince := rfl
@[simp] theorem State.nextFrame_source : s.nextFrame.source = s.source := rfl
@[simp] theorem State.nextFrame_now : s.nextFrame.now = s.now := rfl
@[simp] theorem State.nextFrame_events : s.nextFrame.events = s.events := rfl
@[simp] theorem State.nextFrame_tick : s.nextFrame.tick = s.tick := rfl

/-! ### `raiseHalt` (R196) -/

section
variable (c : HaltCause) (info : Option Byte)

@[simp] theorem State.raiseHalt_cfg : (s.raiseHalt c info).cfg = s.cfg := by
  cases c <;> cases info <;> rfl
@[simp] theorem State.raiseHalt_dfc_st : (s.raiseHalt c info).dfc.st = .halted := by
  cases c <;> cases info <;> rfl
@[simp] theorem State.raiseHalt_dfc_n : (s.raiseHalt c info).dfc.n = s.dfc.n := by
  cases c <;> cases info <;> rfl
@[simp] theorem State.raiseHalt_dfc_buf : (s.raiseHalt c info).dfc.buf = s.dfc.buf := by
  cases c <;> cases info <;> rfl
@[simp] theorem State.raiseHalt_dfc_haltCause : (s.raiseHalt c info).dfc.haltCause = c := by
  cases c <;> cases info <;> rfl
@[simp] theorem State.raiseHalt_none_invFlag : (s.raiseHalt c none).dfc.invFlag = s.dfc.invFlag := by
  cases c <;> rfl
@[simp] theorem State.raiseHalt_none_faultByte : (s.raiseHalt c none).dfc.faultByte = s.dfc.faultByte := by
  cases c <;> rfl
@[simp] theorem State.raiseHalt_invalid_invFlag (b : Byte) :
    (s.raiseHalt .invalidOpcode (some b)).dfc.invFlag = true := rfl
@[simp] theorem State.raiseHalt_invalid_faultByte (b : Byte) :
    (s.raiseHalt .invalidOpcode (some b)).dfc.faultByte = b := rfl
@[simp] theorem State.raiseHalt_trace : (s.raiseHalt c info).trace = s.trace ++ [.halt c info] := by
  cases c <;> cases info <;> rfl
@[simp] theorem State.raiseHalt_h2d : (s.raiseHalt c info).h2d = s.h2d := by
  cases c <;> cases info <;> rfl
@[simp] theorem State.raiseHalt_d2h : (s.raiseHalt c info).d2h = s.d2h := by
  cases c <;> cases info <;> rfl
@[simp] theorem State.raiseHalt_sender : (s.raiseHalt c info).sender = s.sender := by
  cases c <;> cases info <;> rfl
@[simp] theorem State.raiseHalt_source : (s.raiseHalt c info).source = s.source := by
  cases c <;> cases info <;> rfl
@[simp] theorem State.raiseHalt_now : (s.raiseHalt c info).now = s.now := by
  cases c <;> cases info <;> rfl
@[simp] theorem State.raiseHalt_events : (s.raiseHalt c info).events = s.events := by
  cases c <;> cases info <;> rfl
@[simp] theorem State.raiseHalt_tick : (s.raiseHalt c info).tick = s.tick := by
  cases c <;> cases info <;> rfl

end

/-! ### `retryAck` (R172) -/

@[simp] theorem State.advance_ackOverdue : s.advance.ackOverdue = s.ackOverdue := rfl

/-- The ack wait is given up, or goes on. -/
theorem retryAck_cases : retryAck s = s ∨ retryAck s = s.failTransfer .step4 .ackDeadline := by
  unfold retryAck; split
  · exact .inr rfl
  · exact .inl rfl

/-- Where there is no deadline it goes on. -/
theorem retryAck_of_none {s : State} (h : s.cfg.ackDeadline = none) : retryAck s = s := by
  simp [retryAck, State.ackOverdue, h]

/-- Where there is one it goes on until the deadline has passed. -/
theorem retryAck_of_some {s : State} {d : Nat} (h : s.cfg.ackDeadline = some d) :
    retryAck s = if d ≤ s.now - s.sender.waitSince then s.failTransfer .step4 .ackDeadline else s := by
  simp [retryAck, State.ackOverdue, h]

theorem retryAck_sender_phase :
    (retryAck s).sender.phase = if s.ackOverdue then .failed .step4 .ackDeadline else s.sender.phase := by
  unfold retryAck; split <;> rfl

@[simp] theorem retryAck_cfg : (retryAck s).cfg = s.cfg := by
  unfold retryAck; split <;> rfl
@[simp] theorem retryAck_dfc : (retryAck s).dfc = s.dfc := by
  unfold retryAck; split <;> rfl
@[simp] theorem retryAck_trace : (retryAck s).trace = s.trace := by
  unfold retryAck; split <;> rfl
@[simp] theorem retryAck_h2d : (retryAck s).h2d = s.h2d := by
  unfold retryAck; split <;> rfl
@[simp] theorem retryAck_d2h : (retryAck s).d2h = s.d2h := by
  unfold retryAck; split <;> rfl
@[simp] theorem retryAck_sender_j : (retryAck s).sender.j = s.sender.j := by
  unfold retryAck; split <;> rfl
@[simp] theorem retryAck_sender_payload : (retryAck s).sender.payload = s.sender.payload := by
  unfold retryAck; split <;> rfl
@[simp] theorem retryAck_sender_t0 : (retryAck s).sender.t0 = s.sender.t0 := by
  unfold retryAck; split <;> rfl
@[simp] theorem retryAck_sender_waitSince : (retryAck s).sender.waitSince = s.sender.waitSince := by
  unfold retryAck; split <;> rfl
@[simp] theorem retryAck_source : (retryAck s).source = s.source := by
  unfold retryAck; split <;> rfl
@[simp] theorem retryAck_now : (retryAck s).now = s.now := by
  unfold retryAck; split <;> rfl
@[simp] theorem retryAck_events : (retryAck s).events = s.events := by
  unfold retryAck; split <;> rfl
@[simp] theorem retryAck_tick : (retryAck s).tick = s.tick := by
  unfold retryAck; split <;> rfl

end Sys2Proof.Machine
end

