-- ==== Sys2Proof/Laws/Ports.lean ====
section
/-! SUPPORT. One lemma per port transaction: everything it can answer. -/

namespace Sys2Proof.Machine

variable {s t : State}

theorem ackBytes_eq (F : Nat) : ackBytes F = [Config.opCommAck] := rfl

/-! ### Outcomes -/

@[simp] theorem rxFits_noData (q : List Byte) (cap : Nat) : rxFits q cap .noData = true := rfl

@[simp] theorem rxFits_hardError (q : List Byte) (cap c : Nat) : rxFits q cap (.hardError c) = true := rfl

@[simp] theorem rxFits_data {q : List Byte} {cap : Nat} {bs : List Byte} :
    rxFits q cap (.data bs) = true ↔ bs.length ≤ cap ∧ bs <+: q := by simp [rxFits]

@[simp] theorem txFits_accepted {len k : Nat} : txFits len (.accepted k) = true ↔ k ≤ len := by simp [txFits]

@[simp] theorem txFits_hardError (len : Nat) : txFits len .hardError = true := rfl

/-- The Transport's free answer to a read is an outcome of it (R54). -/
theorem rxFits_rxAnswer (q : List Byte) (cap : Nat) (c : RxChoice) : rxFits q cap (rxAnswer q cap c) = true := by
  cases c with
  | noData => rfl
  | deliver k => exact rxFits_data.2 ⟨by rw [List.length_take]; omega, List.take_prefix _ _⟩
  | hardError c => rfl

/-- The Transport's free answer to a write is an outcome of it (R56). -/
theorem txFits_txAnswer (len : Nat) (o : TxOutcome) : txFits len (txAnswer len o) = true := by
  cases o with
  | accepted k => exact txFits_accepted.2 (Nat.min_le_right k len)
  | hardError => rfl

/-! ### Transactions -/

theorem rxRead_eq_some {cap : Nat} {o : RxOutcome} :
    s.rxRead cap = some (o, t) ↔
      s.pending = .rx o ∧ rxFits s.h2d cap o = true ∧ t = s.advance.popH2d (rxConsumed o) := by
  unfold State.rxRead
  split
  · rename_i o' h
    rw [h]
    split
    · rename_i hf
      simp only [Option.some.injEq, Prod.mk.injEq, Event.rx.injEq]
      constructor
      · rintro ⟨rfl, rfl⟩; exact ⟨rfl, hf, rfl⟩
      · rintro ⟨rfl, -, rfl⟩; exact ⟨rfl, rfl⟩
    · rename_i hf
      simp only [Event.rx.injEq, reduceCtorEq, false_iff]
      rintro ⟨rfl, h, -⟩; exact hf h
  · rename_i h
    simp only [reduceCtorEq, false_iff]
    rintro ⟨hp, -⟩; exact h _ hp

theorem txWrite_eq_some {bs : List Byte} {o : TxOutcome} :
    s.txWrite bs = some (o, t) ↔
      s.pending = .tx o ∧ txFits bs.length o = true ∧ t = s.advance.pushD2h (bs.take (txTaken o)) := by
  unfold State.txWrite
  split
  · rename_i o' h
    rw [h]
    split
    · rename_i hf
      simp only [Option.some.injEq, Prod.mk.injEq, Event.tx.injEq]
      constructor
      · rintro ⟨rfl, rfl⟩; exact ⟨rfl, hf, rfl⟩
      · rintro ⟨rfl, -, rfl⟩; exact ⟨rfl, rfl⟩
    · rename_i hf
      simp only [Event.tx.injEq, reduceCtorEq, false_iff]
      rintro ⟨rfl, h, -⟩; exact hf h
  · rename_i h
    simp only [reduceCtorEq, false_iff]
    rintro ⟨hp, -⟩; exact h _ hp

theorem sinkApply_eq_some {o : SinkOutcome} :
    s.sinkApply = some (o, t) ↔ s.pending = .sink o ∧ t = s.advance := by
  unfold State.sinkApply
  split
  · rename_i o' h
    rw [h]
    simp only [Option.some.injEq, Prod.mk.injEq, Event.sink.injEq]
    exact and_congr Iff.rfl eq_comm
  · rename_i h
    simp only [reduceCtorEq, false_iff]
    rintro ⟨hp, -⟩; exact h _ hp

theorem hostRead_eq_some {o : RxOutcome} :
    s.hostRead = some (o, t) ↔
      s.pending = .hostRx o ∧ rxFits s.d2h 1 o = true ∧ t = s.advance.popD2h (rxConsumed o) := by
  unfold State.hostRead
  split
  · rename_i o' h
    rw [h]
    split
    · rename_i hf
      simp only [Option.some.injEq, Prod.mk.injEq, Event.hostRx.injEq]
      constructor
      · rintro ⟨rfl, rfl⟩; exact ⟨rfl, hf, rfl⟩
      · rintro ⟨rfl, -, rfl⟩; exact ⟨rfl, rfl⟩
    · rename_i hf
      simp only [Event.hostRx.injEq, reduceCtorEq, false_iff]
      rintro ⟨rfl, h, -⟩; exact hf h
  · rename_i h
    simp only [reduceCtorEq, false_iff]
    rintro ⟨hp, -⟩; exact h _ hp

theorem hostWrite_eq_some {bs : List Byte} {o : TxOutcome} :
    s.hostWrite bs = some (o, t) ↔
      s.pending = .hostTx o ∧ txFits bs.length o = true ∧ t = s.advance.pushH2d (bs.take (txTaken o)) := by
  unfold State.hostWrite
  split
  · rename_i o' h
    rw [h]
    split
    · rename_i hf
      simp only [Option.some.injEq, Prod.mk.injEq, Event.hostTx.injEq]
      constructor
      · rintro ⟨rfl, rfl⟩; exact ⟨rfl, hf, rfl⟩
      · rintro ⟨rfl, -, rfl⟩; exact ⟨rfl, rfl⟩
    · rename_i hf
      simp only [Event.hostTx.injEq, reduceCtorEq, false_iff]
      rintro ⟨rfl, h, -⟩; exact hf h
  · rename_i h
    simp only [reduceCtorEq, false_iff]
    rintro ⟨hp, -⟩; exact h _ hp

theorem hostLocal_eq_some : s.hostLocal = some t ↔ s.pending = .hostLocal ∧ t = s.advance := by
  unfold State.hostLocal
  split
  · rename_i h
    rw [h]
    simp only [Option.some.injEq, true_and]
    exact eq_comm
  · rename_i h
    simp only [reduceCtorEq, false_iff]
    rintro ⟨hp, -⟩; exact h hp

end Sys2Proof.Machine
end

