-- ==== Sys2Proof/Laws/Moves.lean ====
section
/-! SUPPORT. What one step can do, said once: one constructor per transition of spec/41_receiver.md table
R130 and of the Sender's six steps, and the theorem that a step answers a next state exactly by one of
them. -/

namespace Sys2Proof.Machine

/-- The state in which the fetched opcode byte is dispatched (R122): the byte has left `h2d`, and
`Fetch(b)` is in the trace. -/
def State.fetched (s : State) (b : Byte) : State := (s.advance.popH2d 1).emit (.fetch b)

/-- The transitions of the Receiver, table R130 (without the row of `Halted`, which has no step). -/
inductive ReceiverMove (s : State) : State → Prop
  | idleNoData : s.dfc.st = .idle → s.pending = .rx .noData → ReceiverMove s s.advance
  | idleEmpty : s.dfc.st = .idle → s.pending = .rx (.data []) → ReceiverMove s s.advance
  | idleFulldata : s.dfc.st = .idle → s.pending = .rx (.data [Config.opFullData]) →
      [Config.opFullData] <+: s.h2d → ReceiverMove s (dispatchFulldata (s.fetched Config.opFullData))
  | idleCommack : s.dfc.st = .idle → s.pending = .rx (.data [Config.opCommAck]) →
      [Config.opCommAck] <+: s.h2d → ReceiverMove s (s.fetched Config.opCommAck)
  | idleInvalid (b : Byte) : s.dfc.st = .idle → s.pending = .rx (.data [b]) → [b] <+: s.h2d →
      b ≠ Config.opFullData → b ≠ Config.opCommAck → ReceiverMove s (invalidOpcode b (s.fetched b))
  | idleError (c : Nat) : s.dfc.st = .idle → s.pending = .rx (.hardError c) →
      ReceiverMove s ((s.advance.popH2d c).raiseHalt .rxFault none)
  | recvNoData : s.dfc.st = .recv → s.dfc.n < s.cfg.frameSize → s.pending = .rx .noData →
      ReceiverMove s s.advance
  | recvData (bs : List Byte) : s.dfc.st = .recv → s.dfc.n < s.cfg.frameSize →
      s.pending = .rx (.data bs) → bs.length ≤ s.room → bs <+: s.h2d →
      ReceiverMove s (storePayload bs (s.advance.popH2d bs.length))
  | recvError (c : Nat) : s.dfc.st = .recv → s.dfc.n < s.cfg.frameSize → s.pending = .rx (.hardError c) →
      ReceiverMove s ((s.advance.popH2d c).raiseHalt .rxFault none)
  | applyOk (bs : List Byte) : s.dfc.st = .applying → s.frame = some bs → s.pending = .sink .ok →
      ReceiverMove s ((s.advance.emit (.apply bs)).setSt .acking)
  | applyFail (bs : List Byte) : s.dfc.st = .applying → s.frame = some bs → s.pending = .sink .fail →
      ReceiverMove s (s.advance.raiseHalt .sinkFault none)
  | ackRefused : s.dfc.st = .acking → s.pending = .tx (.accepted 0) →
      ReceiverMove s (s.advance.pushD2h [])
  | ackAccepted : s.dfc.st = .acking → s.pending = .tx (.accepted 1) →
      ReceiverMove s (((s.advance.pushD2h [Config.opCommAck]).emit .ackSent).setSt .idle)
  | ackError : s.dfc.st = .acking → s.pending = .tx .hardError →
      ReceiverMove s ((s.advance.pushD2h []).raiseHalt .txFault none)

/-- The transitions of the Sender (R162 to R168). -/
inductive SenderMove (s : State) : State → Prop
  | exhausted : s.sender.phase = .ready → s.source = [] → s.pending = .hostLocal →
      SenderMove s (s.advance.setPhase .done)
  | sourceFailed (rest : List SourceItem) : s.sender.phase = .ready → s.source = .failure :: rest →
      s.pending = .hostLocal → SenderMove s (s.advance.failTransfer .source .sourceFault)
  | pulled (p : List Byte) (rest : List SourceItem) : s.sender.phase = .ready →
      s.source = .frame p :: rest → p.length = s.cfg.hostFrameSize → s.pending = .hostLocal →
      SenderMove s (s.advance.beginFrame p rest)
  | opcodeRefused : s.sender.phase = .writeOpcode → s.pending = .hostTx (.accepted 0) →
      SenderMove s (s.advance.pushH2d [])
  | opcodeWritten : s.sender.phase = .writeOpcode → s.pending = .hostTx (.accepted 1) →
      SenderMove s ((s.advance.pushH2d [Config.opFullData]).setPhase (.guardDelay (s.now + s.cfg.guardDelay)))
  | opcodeError : s.sender.phase = .writeOpcode → s.pending = .hostTx .hardError →
      SenderMove s ((s.advance.pushH2d []).failTransfer .step1 .transportFault)
  | guarding (wake : Nat) : s.sender.phase = .guardDelay wake → s.now < wake → s.pending = .hostLocal →
      SenderMove s s.advance
  | guarded (wake : Nat) : s.sender.phase = .guardDelay wake → wake ≤ s.now → s.pending = .hostLocal →
      SenderMove s (s.advance.setPhase (.writePayload 0))
  | payloadPart (m k : Nat) : s.sender.phase = .writePayload m → s.pending = .hostTx (.accepted k) →
      k ≤ (s.sender.payload.drop m).length → m + k ≠ s.sender.payload.length →
      SenderMove s ((s.advance.pushH2d ((s.sender.payload.drop m).take k)).setPhase (.writePayload (m + k)))
  | payloadDone (m k : Nat) : s.sender.phase = .writePayload m → s.pending = .hostTx (.accepted k) →
      k ≤ (s.sender.payload.drop m).length → m + k = s.sender.payload.length →
      SenderMove s (s.advance.pushH2d ((s.sender.payload.drop m).take k)).beginAckWait
  | payloadError (m : Nat) : s.sender.phase = .writePayload m → s.pending = .hostTx .hardError →
      SenderMove s ((s.advance.pushH2d []).failTransfer .step3 .transportFault)
  | ackTimeout : s.sender.phase = .awaitAck → s.pending = .hostRx .noData → SenderMove s (retryAck s.advance)
  | ackEmpty : s.sender.phase = .awaitAck → s.pending = .hostRx (.data []) → SenderMove s (retryAck s.advance)
  | ackRead (b : Byte) : s.sender.phase = .awaitAck → s.pending = .hostRx (.data [b]) → [b] <+: s.d2h →
      SenderMove s ((s.advance.popD2h 1).setPhase (.checkAck b))
  | ackError (c : Nat) : s.sender.phase = .awaitAck → s.pending = .hostRx (.hardError c) →
      SenderMove s ((s.advance.popD2h c).failTransfer .step4 .transportFault)
  | acked : s.sender.phase = .checkAck Config.opCommAck → s.pending = .hostLocal →
      SenderMove s (s.advance.setPhase .pace)
  | notAnAck (b : Byte) : s.sender.phase = .checkAck b → b ≠ Config.opCommAck → s.pending = .hostLocal →
      SenderMove s (s.advance.failTransfer .step5 .protocolViolation)
  | paceNone : s.sender.phase = .pace → s.cfg.targetInterval = none → s.pending = .hostLocal →
      SenderMove s s.advance.nextFrame
  | paceSleep (d : Nat) : s.sender.phase = .pace → s.cfg.targetInterval = some d →
      s.now - s.sender.t0 < d → s.pending = .hostLocal →
      SenderMove s (s.advance.setPhase (.pacingSleep (s.now + pacingSleepTime d (s.now - s.sender.t0))))
  | paceLate (d : Nat) : s.sender.phase = .pace → s.cfg.targetInterval = some d →
      d ≤ s.now - s.sender.t0 → s.pending = .hostLocal → SenderMove s s.advance.nextFrame
  | sleeping (wake : Nat) : s.sender.phase = .pacingSleep wake → s.now < wake → s.pending = .hostLocal →
      SenderMove s s.advance
  | woken (wake : Nat) : s.sender.phase = .pacingSleep wake → wake ≤ s.now → s.pending = .hostLocal →
      SenderMove s s.advance.nextFrame

/-- The inputs from outside (R173, R230, U17). -/
inductive InputMove (s : State) : State → Prop
  | inject (bs : List Byte) : s.pending = .inject bs → InputMove s (s.advance.pushH2d bs)
  | elapse (d : Nat) : s.pending = .elapse d → InputMove s (s.advance.passTime d)
  | rst : s.pending = .rst → InputMove s s.advance.rst

/-! ### The Receiver -/

theorem prefix_length_one {α : Type} {bs q : List α} (h : bs.length ≤ 1) (hp : bs <+: q) :
    bs = [] ∨ ∃ b, bs = [b] ∧ [b] <+: q := by
  match bs, h with
  | [], _ => exact .inl rfl
  | [b], _ => exact .inr ⟨b, rfl, hp⟩

variable {s t : State}

/-- Every next state of a Receiver step is a row of table R130. -/
theorem receiverMove_of_receiverStep (h : receiverStep s = .next t) : ReceiverMove s t := by
  unfold receiverStep at h
  split at h
  · rename_i hst
    unfold fetch at h
    split at h
    · rename_i r hr
      split at hr <;> cases hr
      · cases h
      · rename_i hx; cases h
        obtain ⟨hp, -, rfl⟩ := rxRead_eq_some.1 hx
        exact .idleNoData hst hp
      · rename_i hx; cases h
        obtain ⟨hp, -, rfl⟩ := rxRead_eq_some.1 hx
        exact .idleEmpty hst hp
      · rename_i hx; cases h
        obtain ⟨hp, -, rfl⟩ := rxRead_eq_some.1 hx
        exact .idleError _ hst hp
    · rename_i b u hr
      split at hr <;> cases hr
      rename_i bs u hx
      obtain ⟨hp, hf, rfl⟩ := rxRead_eq_some.1 hx
      obtain ⟨hl, hq⟩ := rxFits_data.1 hf
      obtain rfl : bs = [] := by cases bs <;> simp_all
      have hu : (s.advance.popH2d (rxConsumed (.data [b]))).emit (.fetch b) = s.fetched b := rfl
      rw [hu] at h
      unfold dispatchOpcode at h
      rw [decodeOpcode_eq] at h
      by_cases h1 : b = Config.opFullData
      · subst h1
        simp only [if_true] at h
        have hst' : (s.fetched Config.opFullData).dfc.st = .idle := hst
        simp only [exec, execFulldata, hst'] at h
        cases h
        exact .idleFulldata hst hp hq
      · by_cases h2 : b = Config.opCommAck
        · subst h2
          simp only [if_neg h1, if_true, exec, execCommack] at h
          cases h
          exact .idleCommack hst hp hq
        · simp only [if_neg h1, if_neg h2] at h
          cases h
          exact .idleInvalid b hst hp hq h1 h2
  · rename_i hne
    split at h
    · rename_i i hi
      cases hst : s.dfc.st with
      | idle => exact absurd hst (by simpa using hne)
      | halted => simp [hst, inProgress] at hi
      | recv =>
        obtain rfl : i = .fulldata := by simpa [hst, inProgress, eq_comm] using hi
        simp only [exec, execFulldata, hst, recvStep] at h
        split at h
        · rename_i hn
          split at h <;> cases h <;> rename_i hx <;> obtain ⟨hp, hf, rfl⟩ := rxRead_eq_some.1 hx
          · exact .recvNoData hst hn hp
          · obtain ⟨hl, hq⟩ := rxFits_data.1 hf
            exact .recvData _ hst hn hp hl hq
          · exact .recvError _ hst hn hp
        · cases h
      | applying =>
        obtain rfl : i = .fulldata := by simpa [hst, inProgress, eq_comm] using hi
        simp only [exec, execFulldata, hst, applyStep] at h
        split at h
        · cases h
        · rename_i bs hb
          split at h <;> cases h <;> rename_i hx <;> obtain ⟨hp, rfl⟩ := sinkApply_eq_some.1 hx
          · exact .applyOk bs hst hb hp
          · exact .applyFail bs hst hb hp
      | acking =>
        obtain rfl : i = .fulldata := by simpa [hst, inProgress, eq_comm] using hi
        simp only [exec, execFulldata, hst, ackStep] at h
        split at h <;> cases h <;> rename_i hx <;> obtain ⟨hp, hf, rfl⟩ := txWrite_eq_some.1 hx
        · exact .ackRefused hst hp
        · rename_i k
          have hk : k + 1 ≤ 1 := txFits_accepted.1 hf
          obtain rfl : k = 0 := by omega
          exact .ackAccepted hst hp
        · exact .ackError hst hp
    · cases h

/-- Every row of table R130 is a Receiver step. -/
theorem receiverStep_of_receiverMove (h : ReceiverMove s t) : receiverStep s = .next t := by
  unfold receiverStep
  cases h with
  | idleNoData hst hp =>
    have hx : s.rxRead 1 = some (.noData, s.advance) := rxRead_eq_some.2 ⟨hp, rfl, rfl⟩
    simp [hst, fetch, hx]
  | idleEmpty hst hp =>
    have hx : s.rxRead 1 = some (.data [], s.advance) := rxRead_eq_some.2 ⟨hp, by simp, rfl⟩
    simp [hst, fetch, hx]
  | idleFulldata hst hp hq =>
    have hx := rxRead_eq_some.2 ⟨hp, rxFits_data.2 ⟨Nat.le_refl 1, hq⟩, rfl⟩
    have hst' : ((s.advance.popH2d 1).emit (.fetch Config.opFullData)).dfc.st = .idle := hst
    simp only [hst, fetch, hx, dispatchOpcode, decodeOpcode_opFullData, exec, execFulldata, rxConsumed,
      List.length_singleton, hst']
    rfl
  | idleCommack hst hp hq =>
    have hx := rxRead_eq_some.2 ⟨hp, rxFits_data.2 ⟨Nat.le_refl 1, hq⟩, rfl⟩
    simp only [hst, fetch, hx, dispatchOpcode, decodeOpcode_opCommAck, exec, execCommack, rxConsumed,
      List.length_singleton]
    rfl
  | idleInvalid b hst hp hq h1 h2 =>
    have hx := rxRead_eq_some.2 ⟨hp, rxFits_data.2 ⟨Nat.le_refl 1, hq⟩, rfl⟩
    simp only [hst, fetch, hx, dispatchOpcode, decodeOpcode_eq, if_neg h1, if_neg h2, rxConsumed,
      List.length_singleton]
    rfl
  | idleError c hst hp =>
    have hx := rxRead_eq_some.2 ⟨hp, rxFits_hardError s.h2d 1 c, rfl⟩
    simp [hst, fetch, hx, rxConsumed]
  | recvNoData hst hn hp =>
    have hx : s.rxRead s.room = some (.noData, s.advance) := rxRead_eq_some.2 ⟨hp, rfl, rfl⟩
    simp [hst, inProgress, exec, execFulldata, recvStep, hn, hx]
  | recvData bs hst hn hp hl hq =>
    have hx := rxRead_eq_some.2 ⟨hp, rxFits_data.2 ⟨hl, hq⟩, rfl⟩
    simp [hst, inProgress, exec, execFulldata, recvStep, hn, hx, rxConsumed]
  | recvError c hst hn hp =>
    have hx := rxRead_eq_some.2 ⟨hp, rxFits_hardError s.h2d s.room c, rfl⟩
    simp [hst, inProgress, exec, execFulldata, recvStep, hn, hx, rxConsumed]
  | applyOk bs hst hb hp =>
    have hx := sinkApply_eq_some.2 ⟨hp, rfl⟩
    simp [hst, inProgress, exec, execFulldata, applyStep, hb, hx]
  | applyFail bs hst hb hp =>
    have hx := sinkApply_eq_some.2 ⟨hp, rfl⟩
    simp [hst, inProgress, exec, execFulldata, applyStep, hb, hx]
  | ackRefused hst hp =>
    have hx := txWrite_eq_some.2 ⟨hp, txFits_accepted.2 (Nat.zero_le (ackBytes s.cfg.frameSize).length), rfl⟩
    simp [hst, inProgress, exec, execFulldata, ackStep, hx, txTaken]
  | ackAccepted hst hp =>
    have hx := txWrite_eq_some.2 ⟨hp, txFits_accepted.2 (Nat.le_refl (ackBytes s.cfg.frameSize).length), rfl⟩
    simp only [hst, inProgress, exec, execFulldata, ackStep]
    rw [hx]; rfl
  | ackError hst hp =>
    have hx := txWrite_eq_some.2 ⟨hp, txFits_hardError (ackBytes s.cfg.frameSize).length, rfl⟩
    simp [hst, inProgress, exec, execFulldata, ackStep, hx, txTaken]

/-- The Receiver's steps are exactly the rows of table R130. -/
theorem receiverStep_next_iff : receiverStep s = .next t ↔ ReceiverMove s t :=
  ⟨receiverMove_of_receiverStep, receiverStep_of_receiverMove⟩

theorem ReceiverMove.ofReceiver (h : ReceiverMove s t) :
    ∃ e, s.pending = e ∧ ((∃ o, e = .rx o) ∨ (∃ o, e = .tx o) ∨ ∃ o, e = .sink o) := by
  cases h <;> exact ⟨_, ‹s.pending = _›, by simp⟩

/-! ### The Sender -/

theorem localStep_next_iff {f : State → State} :
    localStep s f = .next t ↔ s.pending = .hostLocal ∧ t = f s.advance := by
  unfold localStep
  split
  · rename_i u hu
    obtain ⟨hp, rfl⟩ := hostLocal_eq_some.1 hu
    simp only [Host.Outcome.next.injEq, hp, true_and]
    exact eq_comm
  · rename_i hu
    simp only [reduceCtorEq, false_iff]
    rintro ⟨hp, -⟩
    exact absurd (hostLocal_eq_some.2 ⟨hp, rfl⟩) (by simp [hu])

/-- A frame of the host's `FRAME_SIZE` begins; one of another length fails to construct (R101, R162). -/
theorem pullFrame_frame {p : List Byte} {rest : List SourceItem} (h : s.source = .frame p :: rest) :
    pullFrame s =
      if p.length = s.cfg.hostFrameSize then localStep s fun t => t.beginFrame p rest
      else .refused .badSourceFrame := by
  simp only [pullFrame, h]
  split_ifs with hl
  · rw [mkFullData_of_length hl]
  · rw [mkFullData_of_length_ne hl]

theorem senderMove_of_senderStep (h : senderStep s = .next t) : SenderMove s t := by
  unfold senderStep at h
  split at h
  · rename_i hph
    match hs : s.source with
    | [] =>
      simp only [pullFrame, hs] at h
      obtain ⟨hp, rfl⟩ := localStep_next_iff.1 h
      exact .exhausted hph hs hp
    | .failure :: rest =>
      simp only [pullFrame, hs] at h
      obtain ⟨hp, rfl⟩ := localStep_next_iff.1 h
      exact .sourceFailed rest hph hs hp
    | .frame p :: rest =>
      rw [pullFrame_frame hs] at h
      split_ifs at h with hl
      obtain ⟨hp, rfl⟩ := localStep_next_iff.1 h
      exact .pulled p rest hph hs hl hp
  · rename_i hph
    unfold writeOpcodeStep at h
    split at h <;> cases h <;> rename_i hx <;> obtain ⟨hp, hf, rfl⟩ := hostWrite_eq_some.1 hx
    · exact .opcodeRefused hph hp
    · rename_i k
      have hk : k + 1 ≤ 1 := txFits_accepted.1 hf
      obtain rfl : k = 0 := by omega
      exact .opcodeWritten hph hp
    · exact .opcodeError hph hp
  · rename_i wake hph
    obtain ⟨hp, rfl⟩ := localStep_next_iff.1 h
    by_cases hw : wake ≤ s.now
    · rw [if_pos (by simpa using hw)]; exact .guarded wake hph hw hp
    · rw [if_neg (by simpa using hw)]; exact .guarding wake hph (by omega) hp
  · rename_i m hph
    unfold writePayloadStep at h
    split at h
    · cases h
    · rename_i k u hx
      obtain ⟨hp, hf, rfl⟩ := hostWrite_eq_some.1 hx
      have hk := txFits_accepted.1 hf
      cases h
      by_cases hm : m + k = s.sender.payload.length
      · rw [if_pos (by simpa using hm)]; exact .payloadDone m k hph hp hk hm
      · rw [if_neg (by simpa using hm)]; exact .payloadPart m k hph hp hk hm
    · rename_i u hx
      obtain ⟨hp, -, rfl⟩ := hostWrite_eq_some.1 hx
      cases h
      exact .payloadError m hph hp
  · rename_i hph
    unfold awaitAckStep at h
    split at h
    · cases h
    · rename_i hx; cases h
      obtain ⟨hp, -, rfl⟩ := hostRead_eq_some.1 hx
      exact .ackTimeout hph hp
    · rename_i hx; cases h
      obtain ⟨hp, -, rfl⟩ := hostRead_eq_some.1 hx
      exact .ackEmpty hph hp
    · rename_i b bs u hx; cases h
      obtain ⟨hp, hf, rfl⟩ := hostRead_eq_some.1 hx
      obtain ⟨hl, hq⟩ := rxFits_data.1 hf
      obtain rfl : bs = [] := by cases bs <;> simp_all
      exact .ackRead b hph hp hq
    · rename_i c u hx; cases h
      obtain ⟨hp, -, rfl⟩ := hostRead_eq_some.1 hx
      exact .ackError c hph hp
  · rename_i b hph
    obtain ⟨hp, rfl⟩ := localStep_next_iff.1 h
    by_cases hb : b = Config.opCommAck
    · subst hb; rw [if_pos rfl]; exact .acked hph hp
    · rw [if_neg hb]; exact .notAnAck b hph hb hp
  · rename_i hph
    obtain ⟨hp, rfl⟩ := localStep_next_iff.1 h
    split
    · rename_i hti; exact .paceNone hph hti hp
    · rename_i d hti
      split
      · rename_i hd; exact .paceSleep d hph hti hd hp
      · rename_i hd; exact .paceLate d hph hti (Nat.not_lt.1 hd) hp
  · rename_i wake hph
    obtain ⟨hp, rfl⟩ := localStep_next_iff.1 h
    by_cases hw : wake ≤ s.now
    · rw [if_pos (by simpa using hw)]; exact .woken wake hph hw hp
    · rw [if_neg (by simpa using hw)]; exact .sleeping wake hph (by omega) hp
  · cases h
  · cases h

theorem senderStep_of_senderMove (h : SenderMove s t) : senderStep s = .next t := by
  unfold senderStep
  cases h with
  | exhausted hph hs hp => simp only [hph, pullFrame, hs]; exact localStep_next_iff.2 ⟨hp, rfl⟩
  | sourceFailed rest hph hs hp => simp only [hph, pullFrame, hs]; exact localStep_next_iff.2 ⟨hp, rfl⟩
  | pulled p rest hph hs hl hp =>
    simp only [hph, pullFrame_frame hs, if_pos hl]; exact localStep_next_iff.2 ⟨hp, rfl⟩
  | opcodeRefused hph hp =>
    have hx : s.hostWrite [encodeOpcode .fulldata] = some (.accepted 0, _) :=
      hostWrite_eq_some.2 ⟨hp, txFits_accepted.2 (Nat.zero_le _), rfl⟩
    simp [hph, writeOpcodeStep, hx, txTaken]
  | opcodeWritten hph hp =>
    have hx : s.hostWrite [encodeOpcode .fulldata] = some (.accepted 1, _) :=
      hostWrite_eq_some.2 ⟨hp, txFits_accepted.2 (Nat.le_refl 1), rfl⟩
    simp only [hph, writeOpcodeStep, hx]; rfl
  | opcodeError hph hp =>
    have hx : s.hostWrite [encodeOpcode .fulldata] = some (.hardError, _) :=
      hostWrite_eq_some.2 ⟨hp, rfl, rfl⟩
    simp [hph, writeOpcodeStep, hx, txTaken]
  | guarding wake hph hw hp =>
    simp only [hph]; exact localStep_next_iff.2 ⟨hp, by rw [if_neg (by simpa using hw)]⟩
  | guarded wake hph hw hp =>
    simp only [hph]; exact localStep_next_iff.2 ⟨hp, by rw [if_pos (by simpa using hw)]⟩
  | payloadPart m k hph hp hk hm =>
    have hx := hostWrite_eq_some.2 ⟨hp, txFits_accepted.2 hk, rfl⟩
    simp only [hph, writePayloadStep, hx]
    rw [if_neg (by simpa using hm)]; rfl
  | payloadDone m k hph hp hk hm =>
    have hx := hostWrite_eq_some.2 ⟨hp, txFits_accepted.2 hk, rfl⟩
    simp only [hph, writePayloadStep, hx]
    rw [if_pos (by simpa using hm)]; rfl
  | payloadError m hph hp =>
    have hx := hostWrite_eq_some.2 ⟨hp, txFits_hardError (s.sender.payload.drop m).length, rfl⟩
    simp [hph, writePayloadStep, hx, txTaken]
  | ackTimeout hph hp =>
    have hx : s.hostRead = some (.noData, s.advance) := hostRead_eq_some.2 ⟨hp, rfl, rfl⟩
    simp [hph, awaitAckStep, hx]
  | ackEmpty hph hp =>
    have hx : s.hostRead = some (.data [], s.advance) := hostRead_eq_some.2 ⟨hp, by simp, rfl⟩
    simp [hph, awaitAckStep, hx]
  | ackRead b hph hp hq =>
    have hx := hostRead_eq_some.2 ⟨hp, rxFits_data.2 ⟨Nat.le_refl 1, hq⟩, rfl⟩
    simp [hph, awaitAckStep, hx, rxConsumed]
  | ackError c hph hp =>
    have hx := hostRead_eq_some.2 ⟨hp, rxFits_hardError s.d2h 1 c, rfl⟩
    simp [hph, awaitAckStep, hx, rxConsumed]
  | acked hph hp => simp only [hph]; exact localStep_next_iff.2 ⟨hp, by rw [if_pos rfl]⟩
  | notAnAck b hph hb hp => simp only [hph]; exact localStep_next_iff.2 ⟨hp, by rw [if_neg hb]⟩
  | paceNone hph hti hp => simp only [hph]; exact localStep_next_iff.2 ⟨hp, by simp [hti]⟩
  | paceSleep d hph hti hd hp =>
    simp only [hph]; exact localStep_next_iff.2 ⟨hp, by simp [hti, hd]⟩
  | paceLate d hph hti hd hp =>
    simp only [hph]; exact localStep_next_iff.2 ⟨hp, by simp [hti, Nat.not_lt.2 hd]⟩
  | sleeping wake hph hw hp =>
    simp only [hph]; exact localStep_next_iff.2 ⟨hp, by rw [if_neg (by simpa using hw)]⟩
  | woken wake hph hw hp =>
    simp only [hph]; exact localStep_next_iff.2 ⟨hp, by rw [if_pos (by simpa using hw)]⟩

/-- The Sender's steps are exactly its moves. -/
theorem senderStep_next_iff : senderStep s = .next t ↔ SenderMove s t :=
  ⟨senderMove_of_senderStep, senderStep_of_senderMove⟩

theorem SenderMove.ofSender (h : SenderMove s t) :
    ∃ e, s.pending = e ∧ (e = .hostLocal ∨ (∃ o, e = .hostRx o) ∨ ∃ o, e = .hostTx o) := by
  cases h <;> exact ⟨_, ‹s.pending = _›, by simp⟩

/-! ### The system -/

/-- Everything one step of the system can do. -/
theorem step_cases (h : step s = .next t) : ReceiverMove s t ∨ SenderMove s t ∨ InputMove s t := by
  unfold step at h
  split at h
  · exact .inl (receiverStep_next_iff.1 h)
  · exact .inl (receiverStep_next_iff.1 h)
  · exact .inl (receiverStep_next_iff.1 h)
  · exact .inr (.inl (senderStep_next_iff.1 h))
  · exact .inr (.inl (senderStep_next_iff.1 h))
  · exact .inr (.inl (senderStep_next_iff.1 h))
  · rename_i bs hp; cases h; exact .inr (.inr (.inject bs hp))
  · rename_i d hp; cases h; exact .inr (.inr (.elapse d hp))
  · rename_i hp; cases h; exact .inr (.inr (.rst hp))

theorem step_of_receiverMove (h : ReceiverMove s t) : step s = .next t := by
  obtain ⟨e, he, ⟨o, rfl⟩ | ⟨o, rfl⟩ | ⟨o, rfl⟩⟩ := h.ofReceiver <;>
    simpa only [step, he] using receiverStep_next_iff.2 h

theorem step_of_senderMove (h : SenderMove s t) : step s = .next t := by
  obtain ⟨e, he, rfl | ⟨o, rfl⟩ | ⟨o, rfl⟩⟩ := h.ofSender <;>
    simpa only [step, he] using senderStep_next_iff.2 h

theorem step_of_inputMove (h : InputMove s t) : step s = .next t := by
  cases h <;> simp [step, *]

/-- A step answers `t` exactly by a move of the Receiver, of the Sender, or from outside. -/
theorem step_next_iff : step s = .next t ↔ ReceiverMove s t ∨ SenderMove s t ∨ InputMove s t :=
  ⟨step_cases, fun h => h.elim step_of_receiverMove fun h => h.elim step_of_senderMove step_of_inputMove⟩

end Sys2Proof.Machine
end

