-- ==== Sys2Proof/Laws/PerInstr.lean ====
section
/-! SUPPORT. What holds of every instruction as syntax, one lemma per constructor. -/

/-- Every well-formed instruction is read back from its message, with its operands, whatever bytes follow
it (spec/30_encoding.md R80, R81, R87). -/
def Sys2Proof.Laws.ReadBack.Statement (i : Sys2Proof.Instr) : Prop :=
  ∀ (F : Nat) (ops rest : List Sys2Proof.Byte), i.wf F ops = true →
    ∃ s : Sys2Proof.Signal F, s.instr = i ∧ s.operands = ops ∧
      Sys2Proof.decodeMessage F (Sys2Proof.encodeInstr i ops ++ rest) = .ok (s, rest)

namespace Sys2Proof

theorem Laws.ReadBack.fulldata : Laws.ReadBack.Statement .fulldata := by
  intro F ops rest h
  have hl : ops.length = F := by simpa [Instr.wf] using h
  subst hl
  exact ⟨.fullData ⟨ops, rfl⟩, rfl, rfl, by simp [encodeInstr, encodeOpcode, decodeMessage_opFullData]⟩

theorem Laws.ReadBack.commack : Laws.ReadBack.Statement .commack := by
  intro F ops rest h
  obtain rfl : ops = [] := by simpa [Instr.wf] using h
  exact ⟨.commAck, rfl, rfl, by simp [encodeInstr, encodeOpcode, decodeMessage_opCommAck]⟩

end Sys2Proof
end

