-- ==== Sys2Proof/Laws/Receiver.lean ====
section
/-! SUPPORT. What the Receiver's shared updates leave in each field: the fetched byte, the dispatch of a
FullData, the storing of payload bytes, an invalid opcode. -/

namespace Sys2Proof.Machine

variable (s : State)

/-! ### `fetched` (R122) -/

@[simp] theorem State.fetched_h2d (b : Byte) : (s.fetched b).h2d = s.h2d.drop 1 := rfl
@[simp] theorem State.fetched_trace (b : Byte) : (s.fetched b).trace = s.trace ++ [.fetch b] := rfl
@[simp] theorem State.fetched_events (b : Byte) : (s.fetched b).events = s.events.tail := rfl
@[simp] theorem State.fetched_tick (b : Byte) : (s.fetched b).tick = s.tick + 1 := rfl
@[simp] theorem State.fetched_dfc (b : Byte) : (s.fetched b).dfc = s.dfc := rfl
@[simp] theorem State.fetched_cfg (b : Byte) : (s.fetched b).cfg = s.cfg := rfl
@[simp] theorem State.fetched_d2h (b : Byte) : (s.fetched b).d2h = s.d2h := rfl
@[simp] theorem State.fetched_sender (b : Byte) : (s.fetched b).sender = s.sender := rfl
@[simp] theorem State.fetched_source (b : Byte) : (s.fetched b).source = s.source := rfl
@[simp] theorem State.fetched_now (b : Byte) : (s.fetched b).now = s.now := rfl

/-! ### `dispatchFulldata` (R123) -/

@[simp] theorem dispatchFulldata_dfc_st : (dispatchFulldata s).dfc.st = .recv := rfl
@[simp] theorem dispatchFulldata_dfc_n : (dispatchFulldata s).dfc.n = 0 := rfl
@[simp] theorem dispatchFulldata_dfc_buf : (dispatchFulldata s).dfc.buf = s.dfc.buf := rfl
@[simp] theorem dispatchFulldata_dfc_haltCause : (dispatchFulldata s).dfc.haltCause = s.dfc.haltCause := rfl
@[simp] theorem dispatchFulldata_dfc_invFlag : (dispatchFulldata s).dfc.invFlag = s.dfc.invFlag := rfl
@[simp] theorem dispatchFulldata_dfc_faultByte : (dispatchFulldata s).dfc.faultByte = s.dfc.faultByte := rfl
@[simp] theorem dispatchFulldata_cfg : (dispatchFulldata s).cfg = s.cfg := rfl
@[simp] theorem dispatchFulldata_d2h : (dispatchFulldata s).d2h = s.d2h := rfl
@[simp] theorem dispatchFulldata_sender : (dispatchFulldata s).sender = s.sender := rfl
@[simp] theorem dispatchFulldata_source : (dispatchFulldata s).source = s.source := rfl
@[simp] theorem dispatchFulldata_now : (dispatchFulldata s).now = s.now := rfl
@[simp] theorem dispatchFulldata_trace : (dispatchFulldata s).trace = s.trace := rfl
@[simp] theorem dispatchFulldata_h2d : (dispatchFulldata s).h2d = s.h2d := rfl
@[simp] theorem dispatchFulldata_events : (dispatchFulldata s).events = s.events := rfl
@[simp] theorem dispatchFulldata_tick : (dispatchFulldata s).tick = s.tick := rfl

/-! ### `storePayload` (R126) -/

section
variable (bs : List Byte)

@[simp] theorem storePayload_nil : storePayload [] s = s := rfl

/-- What is stored when there is something to store. -/
theorem storePayload_of_ne_nil {bs : List Byte} (h : bs ≠ []) :
    storePayload bs s =
      if s.dfc.n + bs.length = s.cfg.frameSize then
        (((s.writeBuf s.dfc.n bs).emit (.stored s.dfc.n bs)).setN (s.dfc.n + bs.length)).setSt .applying
      else ((s.writeBuf s.dfc.n bs).emit (.stored s.dfc.n bs)).setN (s.dfc.n + bs.length) := by
  have he : bs.isEmpty = false := by simpa using h
  simp only [storePayload, he]
  rfl

@[simp] theorem storePayload_dfc_n : (storePayload bs s).dfc.n = s.dfc.n + bs.length := by
  by_cases h : bs = []
  · subst h; rfl
  · rw [storePayload_of_ne_nil s h]; split <;> rfl

@[simp] theorem storePayload_dfc_buf :
    (storePayload bs s).dfc.buf = Memory.writeBytes s.dfc.buf s.dfc.n bs := by
  by_cases h : bs = []
  · subst h; rfl
  · rw [storePayload_of_ne_nil s h]; split <;> rfl

theorem storePayload_dfc_st :
    (storePayload bs s).dfc.st =
      if bs ≠ [] ∧ s.dfc.n + bs.length = s.cfg.frameSize then .applying else s.dfc.st := by
  by_cases h : bs = []
  · subst h; simp
  · rw [storePayload_of_ne_nil s h]; split <;> simp [*]

theorem storePayload_trace :
    (storePayload bs s).trace = if bs = [] then s.trace else s.trace ++ [.stored s.dfc.n bs] := by
  by_cases h : bs = []
  · subst h; rfl
  · rw [storePayload_of_ne_nil s h, if_neg h]; split <;> rfl

@[simp] theorem storePayload_dfc_haltCause : (storePayload bs s).dfc.haltCause = s.dfc.haltCause := by
  by_cases h : bs = []
  · subst h; rfl
  · rw [storePayload_of_ne_nil s h]; split <;> rfl

@[simp] theorem storePayload_dfc_invFlag : (storePayload bs s).dfc.invFlag = s.dfc.invFlag := by
  by_cases h : bs = []
  · subst h; rfl
  · rw [storePayload_of_ne_nil s h]; split <;> rfl

@[simp] theorem storePayload_dfc_faultByte : (storePayload bs s).dfc.faultByte = s.dfc.faultByte := by
  by_cases h : bs = []
  · subst h; rfl
  · rw [storePayload_of_ne_nil s h]; split <;> rfl

@[simp] theorem storePayload_cfg : (storePayload bs s).cfg = s.cfg := by
  by_cases h : bs = []
  · subst h; rfl
  · rw [storePayload_of_ne_nil s h]; split <;> rfl

@[simp] theorem storePayload_d2h : (storePayload bs s).d2h = s.d2h := by
  by_cases h : bs = []
  · subst h; rfl
  · rw [storePayload_of_ne_nil s h]; split <;> rfl

@[simp] theorem storePayload_sender : (storePayload bs s).sender = s.sender := by
  by_cases h : bs = []
  · subst h; rfl
  · rw [storePayload_of_ne_nil s h]; split <;> rfl

@[simp] theorem storePayload_source : (storePayload bs s).source = s.source := by
  by_cases h : bs = []
  · subst h; rfl
  · rw [storePayload_of_ne_nil s h]; split <;> rfl

@[simp] theorem storePayload_now : (storePayload bs s).now = s.now := by
  by_cases h : bs = []
  · subst h; rfl
  · rw [storePayload_of_ne_nil s h]; split <;> rfl

@[simp] theorem storePayload_h2d : (storePayload bs s).h2d = s.h2d := by
  by_cases h : bs = []
  · subst h; rfl
  · rw [storePayload_of_ne_nil s h]; split <;> rfl

@[simp] theorem storePayload_events : (storePayload bs s).events = s.events := by
  by_cases h : bs = []
  · subst h; rfl
  · rw [storePayload_of_ne_nil s h]; split <;> rfl

@[simp] theorem storePayload_tick : (storePayload bs s).tick = s.tick := by
  by_cases h : bs = []
  · subst h; rfl
  · rw [storePayload_of_ne_nil s h]; split <;> rfl

end

/-! ### `invalidOpcode` (R125) -/

section
variable (b : Byte)

theorem invalidOpcode_of_drop (h : s.cfg.policy = .drop) :
    invalidOpcode b s = (s.recordInvalid b).emit (.dropped b) := by simp [invalidOpcode, h]

theorem invalidOpcode_of_halt (h : s.cfg.policy = .halt) :
    invalidOpcode b s = (s.recordInvalid b).raiseHalt .invalidOpcode (some b) := by simp [invalidOpcode, h]

theorem invalidOpcode_dfc_st :
    (invalidOpcode b s).dfc.st = if s.cfg.policy = .halt then .halted else s.dfc.st := by
  cases h : s.cfg.policy <;> simp [invalidOpcode, h]

theorem invalidOpcode_dfc_haltCause :
    (invalidOpcode b s).dfc.haltCause =
      if s.cfg.policy = .halt then .invalidOpcode else s.dfc.haltCause := by
  cases h : s.cfg.policy <;> simp [invalidOpcode, h]

theorem invalidOpcode_trace :
    (invalidOpcode b s).trace =
      s.trace ++ [if s.cfg.policy = .halt then .halt .invalidOpcode (some b) else .dropped b] := by
  cases h : s.cfg.policy <;> simp [invalidOpcode, h]

@[simp] theorem invalidOpcode_dfc_n : (invalidOpcode b s).dfc.n = s.dfc.n := by
  cases h : s.cfg.policy <;> simp [invalidOpcode, h]

@[simp] theorem invalidOpcode_dfc_buf : (invalidOpcode b s).dfc.buf = s.dfc.buf := by
  cases h : s.cfg.policy <;> simp [invalidOpcode, h]

@[simp] theorem invalidOpcode_dfc_invFlag : (invalidOpcode b s).dfc.invFlag = true := by
  cases h : s.cfg.policy <;> simp [invalidOpcode, h]

@[simp] theorem invalidOpcode_dfc_faultByte : (invalidOpcode b s).dfc.faultByte = b := by
  cases h : s.cfg.policy <;> simp [invalidOpcode, h]

@[simp] theorem invalidOpcode_cfg : (invalidOpcode b s).cfg = s.cfg := by
  cases h : s.cfg.policy <;> simp [invalidOpcode, h]

@[simp] theorem invalidOpcode_d2h : (invalidOpcode b s).d2h = s.d2h := by
  cases h : s.cfg.policy <;> simp [invalidOpcode, h]

@[simp] theorem invalidOpcode_sender : (invalidOpcode b s).sender = s.sender := by
  cases h : s.cfg.policy <;> simp [invalidOpcode, h]

@[simp] theorem invalidOpcode_source : (invalidOpcode b s).source = s.source := by
  cases h : s.cfg.policy <;> simp [invalidOpcode, h]

@[simp] theorem invalidOpcode_now : (invalidOpcode b s).now = s.now := by
  cases h : s.cfg.policy <;> simp [invalidOpcode, h]

@[simp] theorem invalidOpcode_h2d : (invalidOpcode b s).h2d = s.h2d := by
  cases h : s.cfg.policy <;> simp [invalidOpcode, h]

@[simp] theorem invalidOpcode_events : (invalidOpcode b s).events = s.events := by
  cases h : s.cfg.policy <;> simp [invalidOpcode, h]

@[simp] theorem invalidOpcode_tick : (invalidOpcode b s).tick = s.tick := by
  cases h : s.cfg.policy <;> simp [invalidOpcode, h]

end

end Sys2Proof.Machine
end

