-- ==== Sys2Proof/Laws/Run.lean ====
section
/-! SUPPORT. Runs of the machine, step by step. -/

namespace Sys2Proof.Machine

@[simp] theorem runFor_zero (s : State) : runFor 0 s = .next s := rfl

theorem runFor_succ (k : Nat) (s : State) :
    runFor (k + 1) s =
      match step s with
      | .next t => runFor k t
      | .fault f => .fault f
      | .refused r => .refused r := by
  refine (Host.Core.run.eq_2 Sys2Proof.core s k).trans ?_
  generalize hx : Sys2Proof.core.step s = x
  rw [show step s = x from hx]
  cases x <;> rfl

/-- One step, then the rest. -/
theorem runFor_succ_of_step {s t : State} (k : Nat) (h : step s = .next t) :
    runFor (k + 1) s = runFor k t := by rw [runFor_succ, h]

/-- A run in two parts. -/
theorem runFor_add_of_next {s t : State} (j k : Nat) (h : runFor j s = .next t) :
    runFor (j + k) s = runFor k t := by
  induction j generalizing s with
  | zero => cases h; rw [Nat.zero_add]
  | succ j ih =>
    rw [runFor_succ] at h
    split at h
    · rename_i u hu
      rw [show j + 1 + k = (j + k) + 1 by omega, runFor_succ_of_step _ hu, ih h]
    · cases h
    · cases h

/-- The pending event when something is scripted. -/
theorem State.pending_of_events {s : State} {e : Event} {es : List Event} (h : s.events = e :: es) :
    s.pending = e := by simp [State.pending, h]

/-! ### Scripted and free choices -/

@[simp] theorem State.given_pending (s : State) (e : Event) : (s.given e).pending = e := rfl

/-- When nothing is scripted, a step is the step given the free choice of the environment. -/
theorem step_given_freeEvent {s : State} (h : s.events = []) : step s = step (s.given s.freeEvent) := by
  have hp : s.pending = s.freeEvent := by simp [State.pending, h]
  have hq : (s.given s.freeEvent).pending = s.freeEvent := rfl
  have ha : (s.given s.freeEvent).advance = s.advance := by simp [State.advance, State.given, h]
  have h1 : ∀ cap, s.rxRead cap = (s.given s.freeEvent).rxRead cap := by
    intro cap; simp only [State.rxRead, hp, hq, ha]; rfl
  have h2 : ∀ bs, s.txWrite bs = (s.given s.freeEvent).txWrite bs := by
    intro bs; simp only [State.txWrite, hp, hq, ha]
  have h3 : s.sinkApply = (s.given s.freeEvent).sinkApply := by simp only [State.sinkApply, hp, hq, ha]
  have h4 : s.hostRead = (s.given s.freeEvent).hostRead := by simp only [State.hostRead, hp, hq, ha]; rfl
  have h5 : ∀ bs, s.hostWrite bs = (s.given s.freeEvent).hostWrite bs := by
    intro bs; simp only [State.hostWrite, hp, hq, ha]
  have h6 : s.hostLocal = (s.given s.freeEvent).hostLocal := by simp only [State.hostLocal, hp, hq, ha]
  have hr : receiverStep s = receiverStep (s.given s.freeEvent) := by
    unfold receiverStep
    show _ = match s.dfc.st with
      | .idle => _
      | _ => _
    cases hst : s.dfc.st with
    | idle => simp only [fetch, h1]
    | recv =>
      have e : (s.given s.freeEvent).dfc.st = .recv := hst
      have e2 : (s.given s.freeEvent).room = s.room := rfl
      simp only [inProgress, exec, execFulldata, hst, e, recvStep, h1, e2]; rfl
    | applying =>
      have e : (s.given s.freeEvent).dfc.st = .applying := hst
      have e2 : (s.given s.freeEvent).frame = s.frame := rfl
      simp only [inProgress, exec, execFulldata, hst, e, applyStep, h3, e2]
    | acking =>
      have e : (s.given s.freeEvent).dfc.st = .acking := hst
      have e2 : (s.given s.freeEvent).cfg = s.cfg := rfl
      simp only [inProgress, exec, execFulldata, hst, e, ackStep, h2, e2]
    | halted => rfl
  have hl : ∀ f, localStep s f = localStep (s.given s.freeEvent) f := by
    intro f; simp only [localStep, h6]
  have hs : senderStep s = senderStep (s.given s.freeEvent) := by
    have e : (s.given s.freeEvent).sender = s.sender := rfl
    unfold senderStep
    rw [e]
    cases s.sender.phase with
    | ready =>
      have hsrc : (s.given s.freeEvent).source = s.source := rfl
      have hcfg : (s.given s.freeEvent).cfg = s.cfg := rfl
      show pullFrame s = pullFrame (s.given s.freeEvent)
      match hx : s.source with
      | [] => simp only [pullFrame, hsrc, hx, hl]
      | .failure :: _ => simp only [pullFrame, hsrc, hx, hl]
      | .frame p :: rest => rw [pullFrame_frame hx, pullFrame_frame (hsrc.trans hx), hcfg, hl]
    | writeOpcode => simp only [writeOpcodeStep, h5]
    | guardDelay _ => simp only [guardDelayStep, hl]
    | writePayload _ => simp only [writePayloadStep, h5]; rfl
    | awaitAck => simp only [awaitAckStep, h4]
    | checkAck _ => simp only [checkAckStep, hl]
    | pace => simp only [paceStep, hl]
    | pacingSleep _ => simp only [pacingSleepStep, hl]
    | done => rfl
    | failed _ _ => rfl
  unfold step
  rw [hp, hq, hr, hs, ha]

/-! ### The trace -/

/-- The payload after one more event. -/
theorem payloadSoFar_snoc (tr : List TraceEvent) (e : TraceEvent) :
    payloadSoFar (tr ++ [e]) =
      match e with
      | .fetch b => if b = Config.opFullData then [] else payloadSoFar tr
      | .stored _ bs => payloadSoFar tr ++ bs
      | _ => payloadSoFar tr := by
  unfold payloadSoFar
  cases e <;> exact List.foldl_append ..

theorem applied_append (tr es : List TraceEvent) : applied (tr ++ es) = applied tr ++ applied es := by
  simp [applied]

theorem acksSent_append (tr es : List TraceEvent) : acksSent (tr ++ es) = acksSent tr + acksSent es := by
  simp [acksSent]

/-- The applied frames after one more event. -/
theorem applied_snoc (tr : List TraceEvent) (e : TraceEvent) :
    applied (tr ++ [e]) = applied tr ++ (match e with | .apply bs => [bs] | _ => []) := by
  simp only [applied, List.filterMap_append]
  cases e <;> rfl

/-- The acks sent after one more event. -/
theorem acksSent_snoc (tr : List TraceEvent) (e : TraceEvent) :
    acksSent (tr ++ [e]) = acksSent tr + (if e = .ackSent then 1 else 0) := by
  simp only [acksSent, List.count_append, List.count_singleton, beq_iff_eq]

end Sys2Proof.Machine
end

