-- ==== Sys2Proof/Tests/Slice0.lean ====
section
/-! SUPPORT. Tests. Expected results are those of spec/95_test_vectors.md (the vector's id stands in the
docstring) or are worked out by hand from a rule; then, for every statement with hypotheses, a witness that
meets them together, clause by clause. -/

namespace Sys2Proof.Tests

open Sys2Proof Sys2Proof.Machine

/-! ### Helpers -/

/-- `F = 4` at both ends. -/
def params (policy : Policy := .drop) : Params where
  frameSize := 4
  policy := policy
  hostFrameSize := 4
  guardDelay := 2
  targetInterval := some 100
  hostReadTimeout := 1
  ackDeadline := none

/-- A DFC that never halted and saw no invalid opcode. -/
def dfc (st : St) (n : Nat) (buf : List Byte) : Dfc := { Dfc.reset with st := st, n := n, buf := Memory.writeBytes [] 0 buf }

/-- The system with DFC in a state, bytes on `h2d`, a Sender waiting for an ack, and what happens next. -/
def sys (d : Dfc) (h2d : List Byte) (events : List Event) (policy : Policy := .drop) : State where
  cfg := params policy
  dfc := d
  trace := []
  h2d := h2d
  d2h := []
  sender := { j := 0, payload := [0xDE, 0xAD, 0xBE, 0xEF], phase := .awaitAck, t0 := 10, waitSince := 20 }
  source := []
  now := 40
  events := events
  tick := 0

/-- The system with the Sender in a step of its frame. -/
def host (phase : Phase) (events : List Event) : State :=
  let s := sys Dfc.reset [] events
  { s with sender := { s.sender with phase := phase } }

/-- The next state, where the step answers one. -/
def after (s : State) : Option State := Result.state (step s)

/-- Whether an outcome is a next state. -/
def goesOn (r : Result) : Bool := (Result.state r).isSome

/-- DFC in the next state. -/
def nextDfc (s : State) : Option Dfc := (after s).map (·.dfc)

/-- The Sender's step in the next state. -/
def nextPhase (s : State) : Option Phase := (after s).map (·.sender.phase)

/-! ### WellFormed: ill-formed terms are refused -/

theorem test_params_wf : (params).wf = true := by decide
theorem test_params_frameSize_zero : ({ params with frameSize := 0 } : Params).wf = false := by decide
theorem test_params_hostFrameSize_zero : ({ params with hostFrameSize := 0 } : Params).wf = false := by decide
theorem test_params_timeout_zero : ({ params with hostReadTimeout := 0 } : Params).wf = false := by decide
theorem test_params_interval_zero : ({ params with targetInterval := some 0 } : Params).wf = false := by decide
theorem test_signal_short : mkFullData 4 [1, 2, 3] = .error .badLength := rfl
theorem test_signal_long : mkFullData 4 [1, 2, 3, 4, 5] = .error .badLength := rfl
theorem test_fulldata_operands : Instr.wf 4 .fulldata [1, 2, 3] = false := by decide
theorem test_commack_operands : Instr.wf 4 .commack [1] = false := by decide

/-! ### Decode -/

/-- Section 1.1: bit by bit, bit 7 first. -/
theorem test_decode_fulldata : decodeTableWord 8 0b00000011 = some .fulldata := by decide
/-- Section 1.1. -/
theorem test_decode_commack : decodeTableWord 8 0b00000100 = some .commack := by decide
/-- E1 with the payload in the word's higher bytes. -/
theorem test_decode_fulldata_payload : decodeTableWord 40 0xEFBEADDE03 = some .fulldata := by decide
/-- X3 and DV18: bytes near the two opcodes. -/
theorem test_decode_invalid_bytes :
    [0x00, 0x01, 0x02, 0x05, 0x07, 0x0B, 0x0C, 0x13, 0x7F, 0x80, 0x83, 0x84, 0xFE, 0xFF].all
      (fun b => (decodeOpcode 4 b).isNone) = true := by decide
/-- DV4, DV5, DV6, DV10, DV16. -/
theorem test_decode_payloads :
    decode 4 0x03 (some []) = .err .missingData ∧ decode 4 0x03 (some [1, 2, 3]) = .err .missingData ∧
    decode 4 0x03 (some [1, 2, 3, 4, 5]) = .outsideDomain ∧ decode 4 0x04 (some [1, 2, 3, 4]) = .ok .commAck ∧
    decode 4 0xFF (some [1]) = .err .invalidOpcode := by decide
/-- E2, E5: a stream of two messages; payload bytes that equal opcodes are payload. -/
theorem test_decode_stream : decodeStream 4 [0x03, 0x03, 0x04, 0x03, 0x04, 0x04] =
    .ok [.fullData ⟨[0x03, 0x04, 0x03, 0x04], rfl⟩, .commAck] := by rfl
/-- E2. -/
theorem test_encode : encode (F := 4) (.fullData ⟨[3, 4, 3, 4], rfl⟩) = (0x03, some [3, 4, 3, 4]) := by decide

/-! ### The Receiver -/

/-- V4. -/
theorem test_fulldata_idle :
    nextDfc (sys (dfc .idle 4 [0xDE, 0xAD, 0xBE, 0xEF]) [0x03] [.rx (.data [0x03])]) =
      some (dfc .recv 0 [0xDE, 0xAD, 0xBE, 0xEF]) := by decide
/-- V13. -/
theorem test_fulldata_recv :
    nextDfc (sys (dfc .recv 1 [0xDE]) [0xAD, 0xBE, 0xEF] [.rx (.data [0xAD, 0xBE, 0xEF])]) =
      some (dfc .applying 4 [0xDE, 0xAD, 0xBE, 0xEF]) := by decide
/-- V5. -/
theorem test_commack_idle :
    (after (sys (dfc .idle 4 [0xDE, 0xAD, 0xBE, 0xEF]) [0x04] [.rx (.data [0x04])])).map
        (fun t => (t.dfc, t.h2d, t.d2h, t.trace)) =
      some (dfc .idle 4 [0xDE, 0xAD, 0xBE, 0xEF], [], [], [.fetch 0x04]) := by decide
/-- V6. -/
theorem test_invalid_drop :
    nextDfc (sys (dfc .idle 0 []) [0xFF] [.rx (.data [0xFF])]) =
      some { dfc .idle 0 [] with invFlag := true, faultByte := 0xFF } := by decide
/-- V8. -/
theorem test_invalid_halt :
    nextDfc (sys (dfc .idle 0 []) [0xFF] [.rx (.data [0xFF])] .halt) =
      some { dfc .halted 0 [] with haltCause := .invalidOpcode, invFlag := true, faultByte := 0xFF } := by decide
/-- V19. -/
theorem test_sink_fail :
    (after (sys (dfc .applying 4 [1, 2, 3, 4]) [] [.sink .fail])).map (fun t => (t.dfc, t.d2h)) =
      some ({ dfc .halted 4 [1, 2, 3, 4] with haltCause := .sinkFault }, []) := by decide
/-- V22. -/
theorem test_tx_error :
    (after (sys (dfc .acking 4 []) [] [.tx .hardError])).map (fun t => (t.dfc.haltCause, t.d2h)) =
      some (.txFault, []) := by decide
/-- Section 2.3: outcomes that are none of the request. -/
theorem test_bad_outcomes :
    after (sys (dfc .idle 0 []) [0x03, 0x01] [.rx (.data [0x03, 0x01])]) = none ∧
    after (sys (dfc .recv 1 [1]) [2, 3, 4, 5] [.rx (.data [2, 3, 4, 5])]) = none ∧
    after (sys (dfc .acking 4 []) [] [.tx (.accepted 2)]) = none ∧
    after (sys (dfc .idle 0 []) [] [.sink .ok]) = none := by decide
/-- Z3. -/
theorem test_reset_keeps_the_line :
    (after (sys (dfc .recv 3 [0xDE, 0xAD, 0xBE]) [0xEF] [.rst])).map (fun t => (t.dfc, t.h2d)) =
      some (Dfc.reset, [0xEF]) := by decide
/-- The table of section 2.3. -/
theorem test_cntW : [1, 2, 3, 4, 7, 8, 16, 255, 256, 1024].map cntW = [1, 2, 2, 3, 3, 4, 5, 8, 9, 11] := by decide

/-! ### The Sender -/

/-- HV6. -/
theorem test_partial_write_then_error :
    (after (host (.writePayload 1) [.hostTx .hardError])).map (fun t => (t.sender.phase, t.h2d)) =
      some (.failed .step3 .transportFault, []) := by decide
/-- HV9. -/
theorem test_opcode_is_no_ack :
    nextPhase (host (.checkAck 0x03) [.hostLocal]) = some (.failed .step5 .protocolViolation) := by decide
/-- R172 by hand: with `ACK_DEADLINE = 20` the wait from 20 on is overdue at wall time 40, with 21 it is not. -/
theorem test_ack_deadline :
    let s := fun d => { host .awaitAck [.hostRx .noData] with cfg := { params with ackDeadline := d } }
    nextPhase (s (some 20)) = some (.failed .step4 .ackDeadline) ∧
      nextPhase (s (some 21)) = some .awaitAck ∧ nextPhase (s none) = some .awaitAck := by decide
/-- HV12: 30 of 100 have passed at wall time 40. -/
theorem test_pacing_sleeps_70 : nextPhase (host .pace [.hostLocal]) = some (.pacingSleep (40 + 70)) := by decide
/-- HV14: no negative sleep. -/
theorem test_pacing_late : pacingSleepTime 100 250 = 0 := by decide

/-! ### Witnesses: the Codec -/

theorem witness_DecodeAnswersOrRejects :
    ([1, 2, 3, 4] : List Byte).length = 4 ∧ ([1, 2, 3] : List Byte).length < 4 ∧
      (0x05 : Byte) ≠ 0x03#8 ∧ (0x05 : Byte) ≠ 0x04#8 := by decide

theorem witness_DecodeAndConstructionDomain :
    ([1, 2, 3, 4] : List Byte).length ≤ 4 ∧ 4 < ([1, 2, 3, 4, 5] : List Byte).length ∧
      ([1, 2, 3, 4] : List Byte).length = 4 ∧ ([1, 2, 3] : List Byte).length ≠ 4 := by decide

theorem witness_CodecLaws :
    wire (F := 1) (.fullData ⟨[7], rfl⟩) = wire (F := 1) (.fullData ⟨[7], rfl⟩) ∧
      wire (F := 1) .commAck = wire (F := 1) .commAck ∧
      decode 1 0x03 (some [7]) = .ok (.fullData ⟨[7], rfl⟩) ∧ decode 1 0x04 none = .ok .commAck := by decide

/-! ### Witnesses: the Receiver's steps -/

theorem witness_StepRunsTheFetchedInstruction :
    let s := sys (dfc .idle 0 []) [0x04, 0x03] [.rx (.data [0x04])]
    s.dfc.st = .idle ∧ s.pending = .rx (.data [0x04]) ∧ s.h2d = 0x04 :: [0x03] ∧
      decodeOpcode s.cfg.frameSize 0x04 = some .commack := by decide

theorem witness_StepContinuesTheInstructionInProgress :
    (sys (dfc .recv 3 [1, 2, 3]) [] [.rx .noData]).pending.ofReceiver = true ∧
    (sys (dfc .applying 4 []) [] [.sink .ok]).pending.ofReceiver = true ∧
    (sys (dfc .acking 4 []) [] [.tx (.accepted 0)]).pending.ofReceiver = true := by decide

theorem witness_FulldataDispatches :
    let s := sys (dfc .idle 4 [1, 2, 3, 4]) [0x03] [.rx (.data [0x03])]
    s.dfc.st = .idle ∧ s.pending = .rx (.data [0x03#8]) ∧ s.h2d = 0x03#8 :: [] := by decide

theorem witness_CommackIsDiscarded :
    let s := sys (dfc .idle 0 []) [0x04] [.rx (.data [0x04])]
    s.dfc.st = .idle ∧ s.pending = .rx (.data [0x04#8]) ∧ s.h2d = 0x04#8 :: [] := by decide

theorem witness_InvalidOpcodeIsRecorded (policy : Policy) :
    let s := sys (dfc .idle 0 []) [0x05] [.rx (.data [0x05])] policy
    s.dfc.st = .idle ∧ s.pending = .rx (.data [0x05]) ∧ s.h2d = 0x05 :: [] ∧ (0x05 : Byte) ≠ 0x03#8 ∧
      (0x05 : Byte) ≠ 0x04#8 ∧ s.cfg.policy = policy := by cases policy <;> decide

/-- The chunk that completes the frame, and one that does not. -/
theorem witness_FulldataStoresPayload (bs : List Byte) (h : bs = [2] ∨ bs = [2, 3, 4]) :
    let s := sys (dfc .recv 1 [1]) [2, 3, 4] [.rx (.data bs)]
    s.dfc.st = .recv ∧ s.dfc.n < s.cfg.frameSize ∧ s.pending = .rx (.data bs) ∧ bs ≠ [] ∧
      bs.length ≤ s.cfg.frameSize - s.dfc.n ∧ bs <+: s.h2d := by rcases h with rfl | rfl <;> decide

theorem witness_FulldataAppliesTheFrame (o : SinkOutcome) :
    let s := sys (dfc .applying 4 [1, 2, 3, 4]) [] [.sink o]
    s.dfc.st = .applying ∧ Memory.readBytes s.dfc.buf 0 s.cfg.frameSize = some [1, 2, 3, 4] ∧
      s.pending = .sink o := by cases o <;> decide

theorem witness_FulldataAcknowledges :
    let s := fun k => sys (dfc .acking 4 [1, 2, 3, 4]) [] [.tx (.accepted k)]
    (s 1).dfc.st = .acking ∧ (s 1).pending = .tx (.accepted 1) ∧ (s 0).pending = .tx (.accepted 0) := by decide

theorem witness_TransientAnswersChangeNothing :
    let s := sys (dfc .recv 3 [1, 2, 3]) [4] [.rx .noData, .rx (.data []), .rst]
    s.dfc.n < s.cfg.frameSize ∧ (∀ e ∈ [Event.rx .noData, .rx (.data [])], e.transientIn s.dfc.st = true) ∧
      s.events = [Event.rx RxOutcome.noData, Event.rx (RxOutcome.data [])] ++ [Event.rst] ∧
    (Event.rx (.data [])).transientIn .idle = true ∧ (Event.tx (.accepted 0)).transientIn .acking = true := by decide

theorem witness_HardErrorHaltsAtOnce :
    let s := sys (dfc .idle 0 []) [] [.rx (.hardError 0)]
    let u := sys (dfc .recv 3 [1, 2, 3]) [1, 2] [.rx (.hardError 2)]
    let v := sys (dfc .acking 4 []) [] [.tx .hardError]
    (s.dfc.st = .idle ∧ s.pending = .rx (.hardError 0)) ∧
    (u.dfc.st = .recv ∧ u.dfc.n < u.cfg.frameSize ∧ u.pending = .rx (.hardError 2)) ∧
    v.dfc.st = .acking ∧ v.pending = .tx .hardError := by decide

theorem witness_PayloadBytesAreOpaque :
    let s := sys (dfc .recv 0 []) [0xFF] [.rx (.data [0xFF])]
    let u := sys (dfc .recv 0 [9, 9]) [0x04] [.rx (.data [0x04])]
    s.dfc.st = .recv ∧ { u.dfc with buf := s.dfc.buf } = s.dfc ∧ u.cfg = s.cfg ∧
      s.pending = .rx (.data [0xFF]) ∧ u.pending = .rx (.data [0x04]) ∧
      goesOn (exec .fulldata s) = true ∧ goesOn (exec .fulldata u) = true := by decide

theorem witness_FulldataFrame :
    (∀ d ∈ [dfc .idle 0 [], dfc .halted 0 []], goesOn (exec .fulldata (sys d [] [])) = true) ∧
    goesOn (exec .fulldata (sys (dfc .recv 0 []) [1, 2] [.rx (.data [1, 2])])) = true ∧
    goesOn (exec .fulldata (sys (dfc .applying 4 [1, 2, 3, 4]) [] [.sink .ok])) = true ∧
    goesOn (exec .fulldata (sys (dfc .acking 4 []) [] [.tx (.accepted 1)])) = true := by decide

theorem witness_HaltedChangesNothingUntilReset :
    let s := sys (dfc .halted 2 [1, 2]) [7] [.inject [8]]
    s.dfc.st = .halted ∧ s.pending ≠ .rst ∧ goesOn (step s) = true := by decide

theorem witness_FailedFrameIsNeitherRetriedNorAcknowledged :
    let s := sys (dfc .applying 4 [1, 2, 3, 4]) [] [.sink .fail, .inject [0x03], .elapse 1, .rst]
    s.dfc.st = .applying ∧ s.frame = some [1, 2, 3, 4] ∧
      s.events = Event.sink SinkOutcome.fail :: [Event.inject [0x03], Event.elapse 1] ++ [Event.rst] ∧
      (∀ e ∈ [Event.inject [0x03], Event.elapse 1], e ≠ .rst) ∧ goesOn (runFor (1 + 2) s) = true := by decide

theorem witness_ResetEvent : (sys (dfc .halted 2 [1, 2]) [7] [.rst]).pending = .rst := by decide

/-! ### Witnesses: the invariants of DFC -/

/-- In the middle of a frame, one payload byte from the end. -/
def midFrame : State :=
  { sys (dfc .recv 3 [1, 2, 3]) [4] [.rx (.data [4])] with
    trace := [.fetch 0x03, .stored 0 [1, 2, 3]] }

theorem midFrame_inv : Inv midFrame where
  params := by decide
  counter_le := by decide
  recv_lt := by decide
  full_frame := by decide
  assembled := by decide
  cause_none_iff := by decide
  halt_policy := by decide
  buf_wf := by decide
  buf_bound := by
    intro a h
    have h4 : 4 ≤ a := h
    have hb : midFrame.dfc.buf = [(0, 1), (1, 2), (2, 3)] := by decide
    rw [hb]
    simp only [Memory.read]
    rw [if_neg (by omega), if_neg (by omega), if_neg (by omega)]
  fault_byte := by decide

theorem witness_EveryStepKeepsTheInvariant : Inv midFrame ∧ goesOn (step midFrame) = true :=
  ⟨midFrame_inv, by decide⟩

theorem witness_NoStepFaultsUnderTheInvariant : Inv midFrame := midFrame_inv

theorem witness_UnscriptedSystemAlwaysSteps :
    Inv { midFrame with events := [] } ∧ SourceWf { midFrame with events := [] } :=
  ⟨{ midFrame_inv with }, fun _ h => absurd h List.not_mem_nil⟩

theorem witness_InvalidFlagIsSticky :
    let s := sys { dfc .idle 0 [] with invFlag := true, faultByte := 0xFF } [0x00] [.rx (.data [0x00])]
    let u := sys (dfc .idle 0 []) [0x00] [.rx (.data [0x00])]
    s.pending ≠ .rst ∧ s.dfc.invFlag = true ∧ goesOn (step s) = true ∧
      u.dfc.invFlag = false ∧ (after u).any (fun t => t.dfc.invFlag) = true := by decide

theorem witness_AcksMatchAppliedFrames :
    let s := { sys (dfc .acking 4 []) [] [.tx (.accepted 1)] with trace := [.apply [1, 2, 3, 4]] }
    AcksMatchFrames s ∧ goesOn (step s) = true := ⟨rfl, by decide⟩

theorem witness_OnlyAcksReachTheHost :
    goesOn (step (sys (dfc .acking 4 []) [] [.tx (.accepted 1)])) = true := by decide

theorem witness_CounterFitsItsWidth : Inv midFrame ∧ 3 < 2 ^ 2 := ⟨midFrame_inv, by decide⟩

theorem witness_AgentsKeepToTheirOwnState :
    (∀ e ∈ [Event.rx (.data [4]), .hostRx .noData, .inject [9], .elapse 3, .rst],
      goesOn (step { midFrame with events := [e] }) = true) := by decide

/-! ### Witnesses: a whole message -/

theorem witness_FragmentedPayloadIsReassembled :
    let s := sys (dfc .idle 4 [9, 9, 9, 9]) [0x03, 1, 2, 3, 4, 0x04]
      [.rx (.data [0x03]), .rx (.data [1]), .rx (.data [2, 3, 4]), .sink .ok, .tx (.accepted 1), .rst]
    s.dfc.st = .idle ∧ ([1, 2, 3, 4] : List Byte).length = s.cfg.frameSize ∧ 1 ≤ s.cfg.frameSize ∧
      s.h2d = 0x03#8 :: [1, 2, 3, 4] ++ [0x04] ∧ (∀ c ∈ ([[1], [2, 3, 4]] : List (List Byte)), c ≠ []) ∧
      ([[1], [2, 3, 4]] : List (List Byte)).flatten = [1, 2, 3, 4] ∧
      s.events = Event.rx (RxOutcome.data [0x03#8]) ::
        ([[1], [2, 3, 4]] : List (List Byte)).map (fun c => Event.rx (RxOutcome.data c)) ++
        Event.sink SinkOutcome.ok :: Event.tx (TxOutcome.accepted 1) :: [Event.rst] := by decide

theorem witness_FullDataMessageRun :
    let polls : List (Option (List Byte)) := [none, some []]
    let chunks : List (Option (List Byte)) := [some [1, 2], none, some []]
    let s := sys (dfc .idle 0 []) [0x03, 1, 2, 3, 4] [.rx .noData, .rx (.data []), .rx (.data [0x03]),
      .rx (.data [1, 2]), .rx .noData, .rx (.data []), .rx (.data [3, 4]), .sink .ok, .tx (.accepted 0),
      .tx (.accepted 1)]
    s.dfc.st = .idle ∧ s.h2d = 0x03#8 :: [1, 2, 3, 4] ++ [] ∧ (∀ c ∈ polls, c = none ∨ c = some []) ∧
      ([3, 4] : List Byte) ≠ [] ∧
      (chunks ++ [some [3, 4]]).flatMap (fun c : Option (List Byte) => c.getD []) = [1, 2, 3, 4] ∧
      s.events = polls.map readEvent ++ Event.rx (RxOutcome.data [0x03#8]) ::
        (chunks ++ [some [3, 4]]).map readEvent ++
        Event.sink SinkOutcome.ok :: List.replicate 1 (Event.tx (TxOutcome.accepted 0)) ++
        Event.tx (TxOutcome.accepted 1) :: [] := by decide

/-! ### Witnesses: the Sender -/

theorem witness_FrameSourceIsPulledLazily :
    let s := fun src => { host .ready [.hostLocal] with source := src }
    (s []).sender.phase = .ready ∧ (s []).pending = .hostLocal ∧
    (s [.frame [1, 2, 3, 4]]).source = .frame [1, 2, 3, 4] :: [] ∧
    ([1, 2, 3, 4] : List Byte).length = (s []).cfg.hostFrameSize ∧ (s [.failure]).source = .failure :: [] ∧
    (s []).source = [] := by decide

theorem witness_SenderWritesOpcodeThenWaits :
    (host .writeOpcode [.hostTx (.accepted 1)]).sender.phase = .writeOpcode ∧
    (host .writeOpcode [.hostTx (.accepted 1)]).pending = .hostTx (.accepted 1) ∧
    (host .writeOpcode [.hostTx (.accepted 0)]).pending = .hostTx (.accepted 0) ∧
    (host .writeOpcode [.hostTx .hardError]).pending = .hostTx .hardError ∧
    (host (.guardDelay 40) [.hostLocal]).sender.phase = .guardDelay 40 ∧
    (host (.guardDelay 40) [.hostLocal]).pending = .hostLocal ∧
    40 ≤ (host (.guardDelay 40) [.hostLocal]).now ∧
    (host (.guardDelay 41) [.hostLocal]).sender.phase = .guardDelay 41 ∧
    (host (.guardDelay 41) [.hostLocal]).pending = .hostLocal ∧
    (host (.guardDelay 41) [.hostLocal]).now < 41 := by decide

theorem witness_SenderWritesThePayload :
    let s := fun e => host (.writePayload 1) [e]
    (s (.hostTx (.accepted 3))).sender.phase = .writePayload 1 ∧
    1 ≤ (s (.hostTx (.accepted 3))).sender.payload.length ∧
    3 ≤ (s (.hostTx (.accepted 3))).sender.payload.length - 1 ∧
    (s (.hostTx (.accepted 3))).pending = .hostTx (.accepted 3) ∧
    (s (.hostTx .hardError)).pending = .hostTx .hardError := by decide

/-- With no deadline, one unit before it, and at it. -/
theorem witness_SenderAwaitsTheAck :
    let s := fun o => { host .awaitAck [.hostRx o] with d2h := [0x04] }
    let u := fun d => { s .noData with cfg := { params with ackDeadline := some d } }
    (s .noData).cfg.ackDeadline = none ∧ (u 21).cfg.ackDeadline = some 21 ∧
    (u 21).now - (u 21).sender.waitSince < 21 ∧ 20 ≤ (u 20).now - (u 20).sender.waitSince ∧
    (u 20).sender.phase = .awaitAck ∧ (u 20).pending = .hostRx .noData ∧
    (s .noData).sender.phase = .awaitAck ∧ (s .noData).pending = .hostRx .noData ∧
    (s (.data [])).pending = .hostRx (.data []) ∧ (s (.data [0x04])).pending = .hostRx (.data [0x04]) ∧
    (s (.data [0x04])).d2h = 0x04 :: [] ∧ (s (.hardError 1)).pending = .hostRx (.hardError 1) ∧
    (host (.checkAck 0x03) [.hostLocal]).sender.phase = .checkAck 0x03 ∧
    (host (.checkAck 0x03) [.hostLocal]).pending = .hostLocal := by decide

/-- At the interval (nothing left to sleep), one unit before it, and with no interval. -/
theorem witness_SenderPacesFrames :
    let s := fun t0 ti => { host .pace [.hostLocal] with
      now := 200, cfg := { params with targetInterval := ti }, sender := { Sender.start with phase := .pace, t0 := t0 } }
    (s 0 none).sender.phase = .pace ∧ (s 0 none).pending = .hostLocal ∧ (s 0 none).cfg.targetInterval = none ∧
    (s 100 (some 100)).cfg.targetInterval = some 100 ∧ 100 ≤ (s 100 (some 100)).now - (s 100 (some 100)).sender.t0 ∧
    (s 101 (some 100)).now - (s 101 (some 100)).sender.t0 < 100 ∧
    (host (.pacingSleep 40) [.hostLocal]).sender.phase = .pacingSleep 40 ∧
    40 ≤ (host (.pacingSleep 40) [.hostLocal]).now ∧ (host (.pacingSleep 41) [.hostLocal]).now < 41 := by decide

theorem witness_EndedSenderIsSilent :
    let s := host .done [.inject [7]]
    s.sender.phase.running = false ∧ goesOn (step s) = true := by decide

/-! ### Witnesses: the closed loop -/

/-- Before the first of the frames. -/
def loopStart : State := { host .ready [] with sender := Sender.start, source := [.frame [1, 2, 3, 4]] }

theorem witness_LinkStartsInStep :
    1 ≤ loopStart.cfg.frameSize ∧ loopStart.cfg.hostFrameSize = loopStart.cfg.frameSize ∧
    (∀ p ∈ ([[1, 2, 3, 4]] : List (List Byte)), p.length = loopStart.cfg.frameSize) ∧ loopStart.dfc = Dfc.reset ∧
    loopStart.trace = [] ∧ loopStart.h2d = [] ∧ loopStart.d2h = [] ∧ loopStart.sender = Sender.start ∧
    loopStart.source = [[1, 2, 3, 4]].map .frame := by decide

theorem witness_EveryFrameSequenceCanBeDelivered :
    1 ≤ loopStart.cfg.frameSize ∧ loopStart.cfg.hostFrameSize = loopStart.cfg.frameSize ∧
    (∀ p ∈ ([[1, 2, 3, 4]] : List (List Byte)), p.length = loopStart.cfg.frameSize) ∧ loopStart.dfc = Dfc.reset ∧
    loopStart.trace = [] ∧ loopStart.h2d = [] ∧ loopStart.d2h = [] ∧ loopStart.sender = Sender.start ∧
    loopStart.source = [[1, 2, 3, 4]].map .frame := witness_LinkStartsInStep

/-- The frames of the witnesses below: the helpers' payload alone. -/
def oneFrame : List (List Byte) := [[0xDE, 0xAD, 0xBE, 0xEF]]

theorem witness_EveryStepKeepsTheLinkInStep :
    let s := sys (dfc .recv 1 [0xDE]) [0xAD, 0xBE, 0xEF] [.rx (.data [0xAD])]
    LinkInv oneFrame s ∧ s.pending.stray = false ∧ goesOn (step s) = true :=
  ⟨⟨by decide, by decide, by decide, ⟨rfl, rfl⟩, by decide, rfl, rfl, rfl, rfl⟩, by decide, by decide⟩

/-- An ack on its way, DFC in each of the states the clauses speak of, and the Sender at a frame's start. -/
theorem witness_AtMostOneFrameInFlight :
    LinkInv oneFrame (sys (dfc .recv 1 [0xDE]) [0xAD, 0xBE, 0xEF] []) ∧
    LinkInv oneFrame (sys (dfc .applying 4 [0xDE, 0xAD, 0xBE, 0xEF]) [] []) ∧
    LinkInv oneFrame { sys (dfc .acking 4 []) [] [] with trace := [.apply [0xDE, 0xAD, 0xBE, 0xEF]] } ∧
    LinkInv oneFrame
      { sys (dfc .idle 4 []) [] [] with trace := [.apply [0xDE, 0xAD, 0xBE, 0xEF]], d2h := [Config.opCommAck] } ∧
    LinkInv oneFrame (host .writeOpcode []) :=
  ⟨⟨by decide, by decide, by decide, ⟨rfl, rfl⟩, by decide, rfl, rfl, rfl, rfl⟩,
   ⟨by decide, by decide, by decide, ⟨rfl, rfl⟩, rfl, rfl, rfl, rfl, rfl⟩,
   ⟨by decide, by decide, by decide, ⟨rfl, rfl⟩, rfl, rfl, rfl⟩,
   ⟨by decide, by decide, by decide, ⟨rfl, rfl⟩, .inr ⟨rfl, rfl, rfl⟩⟩,
   ⟨by decide, by decide, by decide, ⟨rfl, rfl⟩, ⟨rfl, .inr ⟨rfl, rfl⟩⟩, rfl⟩⟩

theorem witness_HostWaitsForeverOnAHaltedDevice :
    let s := sys (dfc .halted 2 [1, 2]) [7] [.hostRx .noData]
    s.dfc.st = .halted ∧ s.d2h = [] ∧ s.sender.phase = .awaitAck ∧ s.cfg.ackDeadline = none ∧ s.pending ≠ .rst ∧
      s.pending.hostFatal = false ∧ goesOn (step s) = true := by decide

/-- A pair in which the Sender waits, DFC in `Idle` or in `Recv`, is hung. -/
theorem waiting_hung {st : St} (n : Nat) (buf : List Byte) (e : Event) (h : st = .idle ∨ st = .recv) :
    Hung (sys (dfc st n buf) [] [e]) := by
  refine ⟨fun hw => Phase.noConfusion hw.1, fun hf => ?_, h, rfl, .inr ⟨rfl, rfl, rfl⟩⟩
  rcases hf with hf | ⟨_, _, hf⟩
  · have hf : st = .halted := hf
    rcases h with rfl | rfl <;> cases hf
  · cases hf

/-- So is a Sender that is done with an ack unread, which R176 counts too. -/
theorem done_unread_hung (e : Event) : Hung { host .done [e] with d2h := [0x04] } := by
  refine ⟨fun hw => List.cons_ne_nil _ _ hw.2.2.1, fun hf => ?_, .inl rfl, rfl, .inl rfl⟩
  rcases hf with hf | ⟨_, _, hf⟩ <;> cases hf

/-- The first clause, and then each poll: in step 4, in `Idle`, and in `Recv`. -/
theorem witness_HungPairStaysHung :
    (let s : State := { host .done [.rx .noData] with d2h := [0x04] }
     Hung s ∧ s.pending.stray = false ∧ s.pending.fatal = false ∧ s.pending.hostFatal = false ∧
       goesOn (step s) = true) ∧
    (let s := sys (dfc .recv 1 [0xDE]) [] [.hostRx .noData]
     Hung s ∧ s.sender.phase = .awaitAck ∧ s.pending = .hostRx .noData) ∧
    (let s := sys (dfc .idle 0 []) [] [.rx .noData]
     Hung s ∧ s.dfc.st = .idle ∧ s.pending = .rx .noData) ∧
    (let s := sys (dfc .recv 3 [1, 2, 3]) [] [.rx .noData]
     Hung s ∧ s.dfc.st = .recv ∧ s.dfc.n < s.cfg.frameSize ∧ s.pending = .rx .noData) :=
  ⟨⟨done_unread_hung _, by decide⟩, ⟨waiting_hung _ _ _ (.inr rfl), by decide⟩,
    ⟨waiting_hung _ _ _ (.inl rfl), by decide⟩, ⟨waiting_hung _ _ _ (.inr rfl), by decide⟩⟩

/-! ### Witnesses: fair runs -/

/-- A fair environment for one frame of one byte: the message, the ack, and then polls without data while
time passes. -/
def fairEvents (k : Nat) : Event :=
  match [Event.hostLocal, .hostTx (.accepted 1), .hostLocal, .hostTx (.accepted 1), .rx (.data [0x03]),
    .rx (.data [0xAA]), .sink .ok, .tx (.accepted 1), .hostRx (.data [0x04]), .hostLocal, .hostLocal,
    .hostLocal][k]? with
  | some e => e
  | none => if k % 2 = 0 then .rx .noData else .elapse 1

/-- The frames of the run. -/
def fairFrames : List (List Byte) := [[0xAA]]

/-- Its start: `F = 1`. -/
def fairStart : State :=
  { loopStart with
    cfg := ⟨1, .drop, 1, 0, none, 1, none⟩
    source := [.frame [0xAA]] }

/-- The run. -/
def fairRun : Nat → State
  | 0 => fairStart
  | k + 1 => (after ((fairRun k).given (fairEvents k))).getD (fairRun k)

theorem fairRun_succ {k : Nat} {t : State} (h : step ((fairRun k).given (fairEvents k)) = .next t) :
    fairRun (k + 1) = t := by simp [fairRun, after, h, Result.state]

/-- What the run comes to rest in. -/
def AtRest (s : State) : Prop :=
  s.dfc.st = .idle ∧ s.h2d = [] ∧ s.d2h = [] ∧ s.sender.phase = .done

theorem fairEvents_late {k : Nat} (h : 12 ≤ k) : fairEvents k = if k % 2 = 0 then .rx .noData else .elapse 1 := by
  unfold fairEvents
  rw [List.getElem?_eq_none (by simpa using h)]

/-- Polling an empty queue and passing time keep the run at rest. -/
theorem atRest_step {s : State} (h : AtRest s) (e : Event) (he : e = .rx .noData ∨ e = .elapse 1) :
    ∃ t, step (s.given e) = .next t ∧ AtRest t ∧ t.now = s.now + (if e = .elapse 1 then 1 else 0) := by
  obtain ⟨h1, h2, h3, h4⟩ := h
  rcases he with rfl | rfl
  · refine ⟨(s.given (.rx .noData)).advance, ?_, ⟨h1, h2, h3, h4⟩, rfl⟩
    have hst : (s.given (.rx .noData)).dfc.st = .idle := h1
    simp only [step, State.pending, State.given, receiverStep, fetch, State.rxRead, rxFits, h1]
    rfl
  · exact ⟨(s.given (.elapse 1)).advance.passTime 1, rfl, ⟨h1, h2, h3, h4⟩, rfl⟩

theorem fairRun_early : ∀ k : Fin 12, goesOn (step ((fairRun k).given (fairEvents k))) = true := by decide

theorem fairRun_atRest (k : Nat) : AtRest (fairRun (12 + k)) := by
  induction k with
  | zero => exact ⟨by decide, by decide, by decide, by decide⟩
  | succ k ih =>
    obtain ⟨t, ht, hr, -⟩ := atRest_step ih (fairEvents (12 + k)) (by
      rw [fairEvents_late (by omega)]; split <;> simp)
    rw [← Nat.add_assoc, fairRun_succ ht]; exact hr

theorem fairRun_late {k : Nat} (h : 12 ≤ k) : AtRest (fairRun k) := by
  have := fairRun_atRest (k - 12)
  rwa [show 12 + (k - 12) = k by omega] at this

theorem fairRun_isRun : IsRun fairEvents fairRun := by
  intro k
  by_cases h : k < 12
  · have hs := fairRun_early ⟨k, h⟩
    cases hx : step ((fairRun k).given (fairEvents k)) <;> simp_all [goesOn, Result.state]
    exact (fairRun_succ hx).symm
  · obtain ⟨t, ht, -⟩ := atRest_step (fairRun_late (k := k) (by omega)) (fairEvents k) (by
      rw [fairEvents_late (by omega)]; split <;> simp)
    rw [fairRun_succ ht, ht]

theorem fairRun_now (k : Nat) : k ≤ (fairRun (12 + 2 * k)).now := by
  induction k with
  | zero => exact Nat.zero_le _
  | succ k ih =>
    have he : fairEvents (12 + 2 * k) = .rx .noData := by rw [fairEvents_late (by omega), if_pos (by omega)]
    have hf : fairEvents (12 + 2 * k + 1) = .elapse 1 := by rw [fairEvents_late (by omega), if_neg (by omega)]
    obtain ⟨t, ht, hr, hn⟩ := atRest_step (fairRun_atRest (2 * k)) _ (.inl he)
    have h1 := fairRun_succ ht
    obtain ⟨u, hu, -, hm⟩ := atRest_step hr _ (.inr hf)
    rw [← h1] at hu
    rw [show 12 + 2 * (k + 1) = 12 + 2 * k + 1 + 1 by omega, fairRun_succ hu, hm, hf, if_pos rfl, hn]
    omega

/-- From any point of the run on, DFC polls again, and no later poll or write is pending. -/
theorem fairEvents_poll (k : Nat) : ∃ i, k ≤ i ∧ 12 ≤ i ∧ fairEvents i = .rx .noData :=
  ⟨2 * (k + 6), by omega, by omega, by rw [fairEvents_late (by omega), if_pos (by omega)]⟩

theorem fairEvents_cases {k : Nat} (h : 12 ≤ k) : fairEvents k = .rx .noData ∨ fairEvents k = .elapse 1 := by
  rw [fairEvents_late h]; split <;> simp

theorem fairEvents_harmless (k : Nat) :
    (fairEvents k).fatal = false ∧ (fairEvents k).hostFatal = false ∧ (fairEvents k).stray = false ∧
      fairEvents k ≠ .rst := by
  by_cases h : k < 12
  · have := (by decide : ∀ k : Fin 12, (fairEvents k).fatal = false ∧ (fairEvents k).hostFatal = false ∧
      (fairEvents k).stray = false ∧ fairEvents k ≠ .rst)
    exact this ⟨k, h⟩
  · rcases fairEvents_cases (Nat.le_of_not_lt h) with e | e <;> rw [e] <;> decide

theorem fair_receiver (d : Nat) : ReceiverFair (fun k => fairEvents (k + d)) (fun k => fairRun (k + d)) := by
  intro k
  obtain ⟨i, h1, h2, h3⟩ := fairEvents_poll (k + d)
  exact ⟨i - d, by omega, .inr (by
    show (fairEvents (i - d + d)).ofReceiver = true
    rw [show i - d + d = i by omega, h3]; rfl)⟩

theorem fair_rx (d : Nat) : RxFair (fun k => fairEvents (k + d)) (fun k => fairRun (k + d)) := by
  intro k h
  exact absurd (fairRun_late (k := k + 12 + d) (by omega)).2.1 (h (k + 12) (by omega))

theorem fair_tx (d : Nat) : TxFair (fun k => fairEvents (k + d)) := by
  intro k h
  obtain ⟨j, o, h1, h2⟩ := h (k + 12) (by omega)
  have h2 : fairEvents (j + d) = .tx o := h2
  rcases fairEvents_cases (k := j + d) (by omega) with e | e <;> rw [e] at h2 <;> cases h2

theorem fair_hostRx : HostRxFair fairEvents fairRun := by
  intro k h
  exact absurd (fairRun_late (k := k + 12) (by omega)).2.2.1 (h (k + 12) (by omega))

theorem fair_hostTx : HostTxFair fairEvents := by
  intro k h
  obtain ⟨j, o, h1, h2⟩ := h (k + 12) (by omega)
  rcases fairEvents_cases (k := j) (by omega) with e | e <;> rw [e] at h2 <;> cases h2

theorem fair_sender : SenderFair fairEvents fairRun :=
  ⟨fun k => ⟨k + 12, by omega, .inl (by rw [(fairRun_late (k := k + 12) (by omega)).2.2.2]; rfl)⟩,
    fun d => ⟨_, fairRun_now d⟩⟩

/-- The run meets every hypothesis of the statement about the closed loop. -/
theorem witness_FairClosedLoopDeliversEveryFrame :
    IsRun fairEvents fairRun ∧ ReceiverFair fairEvents fairRun ∧ RxFair fairEvents fairRun ∧ TxFair fairEvents ∧
    HostRxFair fairEvents fairRun ∧ HostTxFair fairEvents ∧ SenderFair fairEvents fairRun ∧
    (∀ k, (fairEvents k).fatal = false ∧ (fairEvents k).hostFatal = false ∧ (fairEvents k).stray = false) ∧
    (fairRun 0).cfg.ackDeadline = none ∧
    1 ≤ (fairRun 0).cfg.frameSize ∧ (fairRun 0).cfg.hostFrameSize = (fairRun 0).cfg.frameSize ∧
    (∀ p ∈ fairFrames, p.length = (fairRun 0).cfg.frameSize) ∧ (fairRun 0).dfc = Dfc.reset ∧
    (fairRun 0).trace = [] ∧ (fairRun 0).h2d = [] ∧ (fairRun 0).d2h = [] ∧
    (fairRun 0).sender = Sender.start ∧ (fairRun 0).source = fairFrames.map .frame :=
  ⟨fairRun_isRun, fair_receiver 0, fair_rx 0, fair_tx 0, fair_hostRx, fair_hostTx, fair_sender,
    fun k => ⟨(fairEvents_harmless k).1, (fairEvents_harmless k).2.1, (fairEvents_harmless k).2.2.1⟩,
    by decide, by decide, by decide, by decide, by decide, by decide, by decide, by decide, by decide, by decide⟩

theorem fairRun_inv_recv : Inv (fairRun 5) where
  params := by decide
  counter_le := by decide
  recv_lt := by decide
  full_frame := by decide
  assembled := by decide
  cause_none_iff := by decide
  halt_policy := by decide
  buf_wf := by decide
  buf_bound := by
    intro a _
    rw [show (fairRun 5).dfc.buf = [] by decide]
    rfl
  fault_byte := by decide

/-- From the dispatch of its FullData on, it meets every hypothesis of the statement about one frame. -/
theorem witness_FairRunsAcknowledgeTheFrame :
    let es := fun k => fairEvents (k + 5)
    let r := fun k => fairRun (k + 5)
    IsRun es r ∧ ReceiverFair es r ∧ RxFair es r ∧ TxFair es ∧ (∀ k, (es k).fatal = false ∧ es k ≠ .rst) ∧
      Inv (r 0) ∧ (r 0).dfc.st = .recv ∧ (r 0).cfg.frameSize - (r 0).dfc.n ≤ (r 0).h2d.length :=
  ⟨fun k => (fairRun_isRun (k + 5)).trans (by rw [show k + 5 + 1 = k + 1 + 5 by omega]), fair_receiver 5,
    fair_rx 5, fair_tx 5, fun k => ⟨(fairEvents_harmless (k + 5)).1, (fairEvents_harmless (k + 5)).2.2.2⟩,
    fairRun_inv_recv, by decide, by decide⟩

end Sys2Proof.Tests
end

section
/-! PROOF. The opcode map of R81: `decodeOpcode` is the partial inverse of `encodeOpcode`. -/

namespace Sys2Proof

theorem encodeOpcode_of_decodeOpcode_eq_some {F : Nat} {b : Byte} {i : Instr}
    (h : decodeOpcode F b = some i) : encodeOpcode i = b := by
  rw [decodeOpcode_eq] at h
  split_ifs at h with hfull hcomm
  · cases h
    exact hfull.symm
  · cases h
    exact hcomm.symm

theorem decodeOpcode_eq_some_iff (F : Nat) (b : Byte) (i : Instr) :
    decodeOpcode F b = some i ↔ b = encodeOpcode i := by
  constructor
  · exact fun h => (encodeOpcode_of_decodeOpcode_eq_some h).symm
  · rintro rfl
    exact decodeOpcode_encodeOpcode F i

/-- The opcode space is closed (R81, R86). -/
theorem decodeOpcode_eq_none_iff (F : Nat) (b : Byte) :
    decodeOpcode F b = none ↔ ∀ i : Instr, b ≠ encodeOpcode i := by
  rw [Option.eq_none_iff_forall_ne_some]
  exact forall_congr' fun i => not_congr (decodeOpcode_eq_some_iff F b i)

theorem forall_ne_encodeOpcode_iff (b : Byte) :
    (∀ i : Instr, b ≠ encodeOpcode i) ↔ b ≠ 0x03#8 ∧ b ≠ 0x04#8 := by
  constructor
  · exact fun h => ⟨h .fulldata, h .commack⟩
  · rintro ⟨hfull, hcomm⟩ (_ | _)
    · exact hfull
    · exact hcomm

/-- Settles O4: both directions of the opcode map come from `decodeOpcode` being the partial inverse of
`encodeOpcode`. -/
theorem opcodeMapIsClosed : Obligations.OpcodeMapIsClosed := by
  intro F b
  have hnone : decodeOpcode F b = none ↔ b ≠ 0x03#8 ∧ b ≠ 0x04#8 :=
    (decodeOpcode_eq_none_iff F b).trans (forall_ne_encodeOpcode_iff b)
  exact ⟨decodeOpcode_eq_some_iff F b .fulldata, decodeOpcode_eq_some_iff F b .commack, hnone,
    rfl, rfl, rfl, rfl⟩

end Sys2Proof
end

section
/-! PROOF. What `encode` and `decode` answer, one lemma per case of their definitions (R102 to R109), and
the statements O1 and O2 put together from them. -/

namespace Sys2Proof

section
variable {F : Nat}

/-! ### encode and wire (R102 to R104) -/

@[simp] theorem encode_fullData (p : Frame F) : encode (.fullData p) = (Config.opFullData, some p.1) := rfl

@[simp] theorem encode_commAck : encode (F := F) .commAck = (Config.opCommAck, none) := rfl

/-- A FullData is its opcode byte and `FRAME_SIZE` bytes (R80): a frame carries its own length. -/
theorem length_wire_fullData (p : Frame F) : (wire (.fullData p)).length = 1 + F := by
  rw [wire_fullData, List.length_cons, p.2, Nat.add_comm]

/-! ### decode (R105 to R109) -/

@[simp] theorem decode_opFullData_none : decode F Config.opFullData none = .err .missingData :=
  if_pos rfl

/-- With FullData's opcode the answer depends on the payload's length alone (R106, R107). -/
theorem decode_opFullData_some (bs : List Byte) :
    decode F Config.opFullData (some bs) =
      if bs.length < F then .err .missingData
      else if h : bs.length = F then .ok (.fullData ⟨bs, h⟩)
      else .outsideDomain :=
  if_pos rfl

theorem decode_opFullData_of_length {bs : List Byte} (h : bs.length = F) :
    decode F Config.opFullData (some bs) = .ok (.fullData ⟨bs, h⟩) := by
  rw [decode_opFullData_some, if_neg h.not_lt, dif_pos h]

theorem decode_opFullData_of_length_lt {bs : List Byte} (h : bs.length < F) :
    decode F Config.opFullData (some bs) = .err .missingData := by
  rw [decode_opFullData_some, if_pos h]

/-- The opcode is examined first, so the payload plays no part (R109, D28). -/
theorem decode_invalid {b : Byte} (hfull : b ≠ Config.opFullData) (hcomm : b ≠ Config.opCommAck)
    (x : Option (List Byte)) : decode F b x = .err .invalidOpcode := by
  unfold decode
  rw [if_neg hfull, if_neg hcomm]

end

/-! ### The statements -/

/-- Settles O1, from the equations of `encode` and `wire` for the two Signals. -/
theorem encodeGivesOpcodeAndPayload : Obligations.EncodeGivesOpcodeAndPayload := by
  intro F
  have hfull (p : Frame F) : encode (.fullData p) = (0x03#8, some p.1) ∧
      wire (.fullData p) = [0x03#8] ++ p.1 ∧ (wire (.fullData p)).length = 1 + F :=
    ⟨encode_fullData p, wire_fullData p, length_wire_fullData p⟩
  exact ⟨hfull, encode_commAck, wire_commAck⟩

/-- Settles O2, from the answer of `decode` in each case of the opcode and of the payload's length. -/
theorem decodeAnswersOrRejects : Obligations.DecodeAnswersOrRejects := by
  intro F
  refine ⟨?full, ?absent, ?short, ?invalid⟩
  case full => exact fun _ h => decode_opFullData_of_length h
  case absent => exact decode_opFullData_none
  case short => exact fun _ h => decode_opFullData_of_length_lt h
  case invalid => exact fun _ x hfull hcomm => decode_invalid hfull hcomm x

end Sys2Proof
end

section
/-! PROOF. Outside `Idle` a Receiver step is the next step of FULLDATA, so the rows of table R130 say what
`exec` answers there; and the statement O16 about the hand-over to the sink (R127). -/

namespace Sys2Proof.Machine

variable {s t : State}

/-- The opcode in progress is implied by the control state (R20). -/
theorem receiverStep_of_inProgress {i : Instr} (h : inProgress s.dfc.st = some i) :
    receiverStep s = exec i s := by
  unfold receiverStep
  split
  case h_1 hidle =>
    rw [hidle] at h
    cases h
  case h_2 => simp only [h]

theorem exec_fulldata_of_receiverMove (hst : inProgress s.dfc.st = some .fulldata) (h : ReceiverMove s t) :
    exec .fulldata s = .next t :=
  (receiverStep_of_inProgress hst).symm.trans (receiverStep_next_iff.2 h)

theorem request_of_applying (hst : s.dfc.st = .applying) : s.request = some (.sinkApply s.frame) := by
  simp only [State.request, hst]

/-- Settles O16: the two outcomes of the sink are the rows `applyOk` and `applyFail` of table R130. -/
theorem fulldataAppliesTheFrame : Obligations.FulldataAppliesTheFrame := by
  intro s bs hst hframe
  have hprog : inProgress s.dfc.st = some .fulldata := by rw [hst]; rfl
  refine ⟨?request, ?ok, ?fail⟩
  case request => rw [request_of_applying hst, show s.frame = some bs from hframe]
  case ok => exact fun hp => exec_fulldata_of_receiverMove hprog (.applyOk bs hst hframe hp)
  case fail => exact fun hp => exec_fulldata_of_receiverMove hprog (.applyFail bs hst hframe hp)

end Sys2Proof.Machine
end

section
/-! PROOF. A fragmented payload (R132). The Receiver holds the payload bytes read so far (`HoldsPayload`), and
every chunk extends them by itself (R126); a run through the first chunks of a cutting therefore holds exactly
their concatenation, and is complete exactly when no chunk is left (`Assembling`). The statement O37 is that
run between the dispatch of FULLDATA and the two steps that apply and acknowledge the frame. -/

namespace Sys2Proof.Machine

/-! ### The `Stored` events of a message (R131) -/

theorem storedEvents_cons_of_ne_nil {c : List Byte} (h : c ≠ []) (off : Nat) (cs : List (List Byte)) :
    storedEvents off (c :: cs) = .stored off c :: storedEvents (off + c.length) cs :=
  if_neg (by simpa using h)

@[simp] theorem applied_storedEvents (off : Nat) (cs : List (List Byte)) : applied (storedEvents off cs) = [] := by
  induction cs generalizing off with
  | nil => rfl
  | cons c cs ih =>
    unfold storedEvents
    split
    · exact ih off
    · exact ih (off + c.length)

@[simp] theorem acksSent_storedEvents (off : Nat) (cs : List (List Byte)) : acksSent (storedEvents off cs) = 0 := by
  induction cs generalizing off with
  | nil => rfl
  | cons c cs ih =>
    unfold storedEvents
    split
    · exact ih off
    · exact (List.count_cons_of_ne (by simp)).trans (ih (off + c.length))

/-- The events of one whole message apply one frame. -/
theorem applied_messageEvents (b : Byte) (off : Nat) (cs : List (List Byte)) (p : List Byte) :
    applied (.fetch b :: storedEvents off cs ++ [.apply p, .ackSent]) = [p] := by
  show applied (storedEvents off cs ++ [.apply p, .ackSent]) = [p]
  rw [applied_append, applied_storedEvents]
  rfl

/-- The events of one whole message send one acknowledgement. -/
theorem acksSent_messageEvents (b : Byte) (off : Nat) (cs : List (List Byte)) (p : List Byte) :
    acksSent (.fetch b :: storedEvents off cs ++ [.apply p, .ackSent]) = 1 := by
  rw [List.cons_append, acksSent, List.count_cons_of_ne (by simp), ← acksSent, acksSent_append,
    acksSent_storedEvents]
  rfl

/-! ### The payload so far (R126) -/

/-- The Receiver is collecting a payload whose bytes so far are `got`, or has just completed it: `n` counts
them, they are the first elements of the buffer, and the frame is complete exactly in `Applying`. -/
structure HoldsPayload (got : List Byte) (s : State) : Prop where
  st : s.dfc.st = if got.length = s.cfg.frameSize then .applying else .recv
  counter : s.dfc.n = got.length
  buffer : Memory.readBytes s.dfc.buf 0 got.length = some got

variable {s : State} {got : List Byte}

theorem HoldsPayload.recv (h : HoldsPayload got s) (hlt : got.length < s.cfg.frameSize) :
    s.dfc.st = .recv := by rw [h.st, if_neg hlt.ne]

theorem HoldsPayload.applying (h : HoldsPayload got s) (hfull : got.length = s.cfg.frameSize) :
    s.dfc.st = .applying := by rw [h.st, if_pos hfull]

theorem HoldsPayload.frame (h : HoldsPayload got s) (hfull : got.length = s.cfg.frameSize) :
    s.frame = some got := by rw [State.frame, ← hfull, h.buffer]

/-- The dispatch of FULLDATA begins with no byte (R123). -/
theorem holdsPayload_dispatchFulldata (hF : 1 ≤ s.cfg.frameSize) : HoldsPayload [] (dispatchFulldata s) where
  st := (if_neg (Nat.ne_of_lt hF)).symm
  counter := rfl
  buffer := rfl

/-- What is stored joins the bytes so far at their end, and the completion test is part of the storing. -/
theorem HoldsPayload.store {c : List Byte} (h : HoldsPayload got s) (hc : c ≠ [])
    (hlt : got.length < s.cfg.frameSize) : HoldsPayload (got ++ c) (storePayload c s) where
  st := by
    rw [storePayload_dfc_st, h.recv hlt, h.counter, storePayload_cfg, List.length_append]
    simp only [hc, ne_eq, not_false_eq_true, true_and]
  counter := by rw [storePayload_dfc_n, h.counter, List.length_append]
  buffer := by
    rw [storePayload_dfc_buf, h.counter, List.length_append]
    exact Memory.readBytes_writeBytes_append h.buffer

/-- Reading the next chunk of `h2d` stores it. -/
theorem HoldsPayload.step_data {c q : List Byte} (h : HoldsPayload got s) (hc : c ≠ [])
    (hroom : got.length + c.length ≤ s.cfg.frameSize) (hp : s.pending = .rx (.data c)) (hq : s.h2d = c ++ q) :
    step s = .next (storePayload c (s.advance.popH2d c.length)) ∧
      HoldsPayload (got ++ c) (storePayload c (s.advance.popH2d c.length)) := by
  have hpos : 0 < c.length := List.length_pos_iff.2 hc
  have hlt : got.length < s.cfg.frameSize := by omega
  have hn : s.dfc.n < s.cfg.frameSize := h.counter ▸ hlt
  have hcap : c.length ≤ s.room := by rw [State.room, h.counter]; omega
  have hread : HoldsPayload got (s.advance.popH2d c.length) := ⟨h.st, h.counter, h.buffer⟩
  exact ⟨step_of_receiverMove (.recvData c (h.recv hlt) hn hp hcap ⟨q, hq.symm⟩),
    hread.store hc hlt⟩

/-! ### A run through the chunks -/

/-- Where the run of a fragmented FullData stands: the bytes `got` are stored, the non-empty chunks `left` that
complete the frame are still to be delivered, and after them come `rest` on `h2d` and the events `es`. -/
structure Assembling (got : List Byte) (left : List (List Byte)) (rest : List Byte) (es : List Event)
    (s : State) : Prop where
  holds : HoldsPayload got s
  nonempty : ∀ c ∈ left, c ≠ []
  size : s.cfg.frameSize = got.length + left.flatten.length
  h2d : s.h2d = left.flatten ++ rest
  events : s.events = left.map (fun c => .rx (.data c)) ++ es

variable {left : List (List Byte)} {rest : List Byte} {es : List Event}

/-- With a chunk left the frame is not complete, the chunk being non-empty. -/
theorem Assembling.recv (h : Assembling got left rest es s) (hleft : left ≠ []) : s.dfc.st = .recv := by
  obtain ⟨c, cs, rfl⟩ := List.exists_cons_of_ne_nil hleft
  have hpos : 0 < c.length := List.length_pos_iff.2 (h.nonempty c List.mem_cons_self)
  have hsize := h.size
  rw [List.flatten_cons, List.length_append] at hsize
  exact h.holds.recv (by omega)

theorem Assembling.length_eq_frameSize (h : Assembling got [] rest es s) : got.length = s.cfg.frameSize := by
  simpa using h.size.symm

theorem Assembling.step_cons {c : List Byte} (h : Assembling got (c :: left) rest es s) :
    ∃ t : State, step s = .next t ∧ Assembling (got ++ c) left rest es t ∧
      t.trace = s.trace ++ [.stored got.length c] ∧ t.d2h = s.d2h := by
  obtain ⟨hne, hleft⟩ := List.forall_mem_cons.1 h.nonempty
  have hsize : s.cfg.frameSize = got.length + (c.length + left.flatten.length) := by
    simpa using h.size
  have hh2d : s.h2d = c ++ (left.flatten ++ rest) := by simpa using h.h2d
  obtain ⟨hstep, hholds⟩ :=
    h.holds.step_data hne (by omega) (State.pending_of_events h.events) hh2d
  refine ⟨_, hstep, ⟨hholds, hleft, ?size, ?h2d, ?events⟩, ?trace, ?d2h⟩
  case size => simp [hsize, Nat.add_assoc]
  case h2d => simp [hh2d]
  case events => simp [h.events]
  case trace => simp [storePayload_trace, hne, h.holds.counter]
  case d2h => simp

/-- After `k` chunks the Receiver holds exactly those chunks' bytes, and the others are left. -/
theorem Assembling.run {k : Nat} (h : Assembling got left rest es s) (hk : k ≤ left.length) :
    ∃ t : State, runFor k s = .next t ∧
      Assembling (got ++ (left.take k).flatten) (left.drop k) rest es t ∧
      t.trace = s.trace ++ storedEvents got.length (left.take k) ∧ t.d2h = s.d2h := by
  induction k generalizing s got left with
  | zero => exact ⟨s, rfl, by simpa using h, by simp [storedEvents], rfl⟩
  | succ k ih =>
    cases left with
    | nil => simp at hk
    | cons c left =>
      obtain ⟨u, hstep, hu, hutrace, hud2h⟩ := h.step_cons
      obtain ⟨t, hrun, ht, httrace, htd2h⟩ := ih hu (by simpa using hk)
      have hne : c ≠ [] := h.nonempty c List.mem_cons_self
      refine ⟨t, (runFor_succ_of_step k hstep).trans hrun, by simpa using ht, ?trace, htd2h.trans hud2h⟩
      case trace => simp [httrace, hutrace, storedEvents_cons_of_ne_nil hne]

/-! ### The first step and the last two -/

/-- The dispatch of FULLDATA leaves the whole payload to be assembled (R123). -/
theorem assembling_of_dispatch (hst : s.dfc.st = .idle) (hlen : left.flatten.length = s.cfg.frameSize)
    (hF : 1 ≤ s.cfg.frameSize) (hne : ∀ c ∈ left, c ≠ [])
    (hq : s.h2d = Config.opFullData :: left.flatten ++ rest)
    (hev : s.events = .rx (.data [Config.opFullData]) :: left.map (fun c => .rx (.data c)) ++ es) :
    ∃ t : State, step s = .next t ∧ Assembling [] left rest es t ∧
      t.trace = s.trace ++ [.fetch Config.opFullData] ∧ t.d2h = s.d2h := by
  have hmove := ReceiverMove.idleFulldata hst (State.pending_of_events hev) ⟨left.flatten ++ rest, hq.symm⟩
  have hholds := holdsPayload_dispatchFulldata (s := s.fetched Config.opFullData) hF
  refine ⟨_, step_of_receiverMove hmove, ⟨hholds, hne, ?size, ?h2d, ?events⟩, rfl, rfl⟩
  case size => simp [← hlen]
  case h2d => simp [hq]
  case events => simp [hev]

/-- The sink's `Ok` to a complete frame (R127). -/
def State.appliedFrame (s : State) (p : List Byte) : State := (s.advance.emit (.apply p)).setSt .acking

/-- The accepted acknowledgement (R128). -/
def State.acknowledged (s : State) : State :=
  ((s.advance.pushD2h [Config.opCommAck]).emit .ackSent).setSt .idle

theorem step_sink_ok (hst : s.dfc.st = .applying) (hframe : s.frame = some got)
    (hev : s.events = .sink .ok :: es) : step s = .next (s.appliedFrame got) :=
  step_of_receiverMove (.applyOk got hst hframe (State.pending_of_events hev))

theorem step_tx_accepted (hst : s.dfc.st = .acking) (hev : s.events = .tx (.accepted 1) :: es) :
    step s = .next s.acknowledged :=
  step_of_receiverMove (.ackAccepted hst (State.pending_of_events hev))

/-- A complete frame is applied and acknowledged in two steps. -/
theorem Assembling.step_complete (h : Assembling got [] rest (.sink .ok :: .tx (.accepted 1) :: es) s) :
    step s = .next (s.appliedFrame got) ∧
      step (s.appliedFrame got) = .next (s.appliedFrame got).acknowledged := by
  have hfull := h.length_eq_frameSize
  have hev : (s.appliedFrame got).events = .tx (.accepted 1) :: es := by
    simp [State.appliedFrame, h.events]
  exact ⟨step_sink_ok (h.holds.applying hfull) (h.holds.frame hfull) h.events, step_tx_accepted rfl hev⟩

/-- The whole message, step by step: the state after every number of chunks, the frame that is complete after
the last of them, and the two steps that follow. -/
theorem fragmented_run (hst : s.dfc.st = .idle) (hlen : left.flatten.length = s.cfg.frameSize)
    (hF : 1 ≤ s.cfg.frameSize) (hne : ∀ c ∈ left, c ≠ [])
    (hq : s.h2d = Config.opFullData :: left.flatten ++ rest)
    (hev : s.events = .rx (.data [Config.opFullData]) :: left.map (fun c => .rx (.data c)) ++
      .sink .ok :: .tx (.accepted 1) :: es) :
    (∀ j < left.length, ∃ u : State, runFor (1 + j) s = .next u ∧ u.dfc.st = .recv) ∧
    ∃ t : State, runFor (1 + left.length) s = .next t ∧
      Assembling left.flatten [] rest (.sink .ok :: .tx (.accepted 1) :: es) t ∧
      t.trace = s.trace ++ .fetch Config.opFullData :: storedEvents 0 left ∧ t.d2h = s.d2h ∧
      runFor (2 + left.length) s = .next (t.appliedFrame left.flatten) ∧
      runFor (3 + left.length) s = .next (t.appliedFrame left.flatten).acknowledged := by
  obtain ⟨u, hstep, hu, hutrace, hud2h⟩ := assembling_of_dispatch hst hlen hF hne hq hev
  have hdispatch : runFor 1 s = .next u := runFor_succ_of_step 0 hstep
  constructor
  · intro j hj
    obtain ⟨v, hrun, hv, -⟩ := hu.run hj.le
    exact ⟨v, (runFor_add_of_next 1 j hdispatch).trans hrun, hv.recv (by simpa using hj)⟩
  · obtain ⟨t, hrun, ht, httrace, htd2h⟩ := hu.run le_rfl
    simp only [List.take_length, List.drop_length, List.nil_append] at ht httrace
    obtain ⟨happly, hack⟩ := ht.step_complete
    have hlast : runFor (1 + left.length) s = .next t := (runFor_add_of_next 1 _ hdispatch).trans hrun
    have htwo : runFor 2 t = .next (t.appliedFrame left.flatten).acknowledged :=
      (runFor_succ_of_step 1 happly).trans (runFor_succ_of_step 0 hack)
    refine ⟨t, hlast, ht, by simp [httrace, hutrace], htd2h.trans hud2h, ?apply, ?ack⟩
    case apply =>
      rw [show 2 + left.length = 1 + left.length + 1 by omega, runFor_add_of_next _ 1 hlast]
      exact runFor_succ_of_step 0 happly
    case ack => rw [show 3 + left.length = 1 + left.length + 2 by omega, runFor_add_of_next _ 2 hlast, htwo]

/-- Settles O37. The run is in `Idle` before the dispatch, in `Recv` while a chunk is left, and in `Acking` and
`Idle` after the two steps that follow a complete frame, so it is in `Applying` after the last chunk alone. -/
theorem fragmentedPayloadIsReassembled : Obligations.FragmentedPayloadIsReassembled := by
  rintro s _ rest chunks more hst hlen hF hq hne rfl hev
  obtain ⟨hrecv, t, hlast, ht, httrace, htd2h, hacking, hidle⟩ := fragmented_run hst hlen hF hne hq hev
  have hfull := ht.length_eq_frameSize
  have hn : t.dfc.n = s.cfg.frameSize := ht.holds.counter.trans hlen
  have hframe : t.frame = some chunks.flatten := ht.holds.frame hfull
  refine ⟨⟨t, hlast, ht.holds.applying hfull, hn, hframe, ht.h2d⟩, ?once, ?complete⟩
  case once =>
    intro k t' hk hne_last hrun
    have hst_of {v : State} (h : runFor k s = .next v) : t'.dfc.st = v.dfc.st := by
      rw [Host.Outcome.next.inj (hrun.symm.trans h)]
    obtain rfl | ⟨j, hj, rfl⟩ | rfl | rfl : k = 0 ∨ (∃ j < chunks.length, k = 1 + j) ∨
        k = 2 + chunks.length ∨ k = 3 + chunks.length := by
      by_cases hmid : 0 < k ∧ k < 1 + chunks.length
      · exact .inr (.inl ⟨k - 1, by omega⟩)
      · omega
    · simp [hst_of (runFor_zero s), hst]
    · obtain ⟨v, hv, hvst⟩ := hrecv j hj
      simp [hst_of hv, hvst]
    · simp [hst_of hacking, State.appliedFrame]
    · simp [hst_of hidle, State.acknowledged]
  case complete =>
    have htrace : (t.appliedFrame chunks.flatten).acknowledged.trace = s.trace ++ .fetch 0x03#8 ::
        storedEvents 0 chunks ++ [.apply chunks.flatten, .ackSent] := by
      simp [State.acknowledged, State.appliedFrame, httrace, Config.opFullData]
    refine ⟨_, hidle, rfl, hn, hframe, htrace, ?applied, ?acks, ?d2h, ht.h2d, ?events⟩
    case applied => rw [htrace, List.append_assoc, applied_append, applied_messageEvents]
    case acks => rw [htrace, List.append_assoc, acksSent_append, acksSent_messageEvents]
    case d2h => simp [State.acknowledged, State.appliedFrame, htd2h, Config.opCommAck]
    case events => simp [State.acknowledged, State.appliedFrame, ht.events]

end Sys2Proof.Machine
end

section
/-! PROOF. The Codec inverts itself. `decodeMessage` answers a Signal and a rest exactly when the stream is the
Signal's message followed by the rest (`decodeMessage_eq_ok_iff`); the laws of R110 and the round trip of whole
streams (R88) follow from it. -/

namespace Sys2Proof

section
variable {F : Nat}

/-! ### decode, continued (R105 to R109) -/

theorem decode_opFullData_of_length_gt {bs : List Byte} (h : F < bs.length) :
    decode F Config.opFullData (some bs) = .outsideDomain := by
  rw [decode_opFullData_some, if_neg h.not_gt, dif_neg h.ne']

@[simp] theorem decode_opCommAck_none : decode F Config.opCommAck none = .ok .commAck := by
  unfold decode
  rw [if_neg opCommAck_ne_opFullData, if_pos rfl]

theorem decode_opCommAck_some (bs : List Byte) :
    decode F Config.opCommAck (some bs) = if bs.length ≤ F then .ok .commAck else .outsideDomain := by
  unfold decode
  rw [if_neg opCommAck_ne_opFullData, if_pos rfl]

/-- L1 and L2 of R110. -/
theorem decode_encode (s : Signal F) : decode F (encode s).1 (encode s).2 = .ok s := by
  cases s with
  | fullData p => exact decode_opFullData_of_length p.2
  | commAck => exact decode_opCommAck_none

/-- With FullData's opcode the Signal is a FullData of exactly the payload given (L5 of R110). -/
theorem decode_opFullData_eq_ok {x : Option (List Byte)} {s : Signal F}
    (h : decode F Config.opFullData x = .ok s) : ∃ p : Frame F, s = .fullData p ∧ x = some p.1 := by
  cases x with
  | none => simp at h
  | some bs =>
    rw [decode_opFullData_some] at h
    split_ifs at h with _ hlen
    cases h
    exact ⟨⟨bs, hlen⟩, rfl, rfl⟩

theorem decode_opCommAck_eq_ok {x : Option (List Byte)} {s : Signal F}
    (h : decode F Config.opCommAck x = .ok s) : s = .commAck := by
  cases x with
  | none => simpa [eq_comm] using h
  | some bs =>
    rw [decode_opCommAck_some] at h
    split_ifs at h
    simpa [eq_comm] using h

/-- L5 and L6 of R110: what `decode` answers was in what it was given. -/
theorem decode_eq_ok {b : Byte} {x : Option (List Byte)} {s : Signal F} (h : decode F b x = .ok s) :
    b = (encode s).1 ∧ ∀ p : Frame F, s = .fullData p → x = some p.1 := by
  by_cases hfull : b = Config.opFullData
  · subst hfull
    obtain ⟨p, rfl, rfl⟩ := decode_opFullData_eq_ok h
    exact ⟨rfl, fun q hq => by cases hq; rfl⟩
  by_cases hcomm : b = Config.opCommAck
  · subst hcomm
    obtain rfl := decode_opCommAck_eq_ok h
    exact ⟨rfl, nofun⟩
  · rw [decode_invalid hfull hcomm] at h
    cases h

/-! ### The first message of a stream (R87 to R89) -/

theorem decodeMessage_wire_append (s : Signal F) (rest : List Byte) :
    decodeMessage F (wire s ++ rest) = .ok (s, rest) := by
  cases s with
  | fullData p =>
    obtain ⟨p, rfl⟩ := p
    simp [decodeMessage_opFullData]
  | commAck => exact decodeMessage_opCommAck F rest

theorem eq_wire_append_of_decodeMessage {bs rest : List Byte} {s : Signal F}
    (h : decodeMessage F bs = .ok (s, rest)) : bs = wire s ++ rest := by
  cases bs with
  | nil => cases h
  | cons b tail =>
    by_cases hfull : b = Config.opFullData
    · subst hfull
      rw [decodeMessage_opFullData] at h
      split_ifs at h
      cases h
      simp
    by_cases hcomm : b = Config.opCommAck
    · subst hcomm
      rw [decodeMessage_opCommAck] at h
      cases h
      rfl
    · rw [decodeMessage_invalid F tail hfull hcomm] at h
      cases h

/-- The first message of a stream and what follows it are determined (R87). -/
theorem decodeMessage_eq_ok_iff {bs rest : List Byte} {s : Signal F} :
    decodeMessage F bs = .ok (s, rest) ↔ bs = wire s ++ rest :=
  ⟨eq_wire_append_of_decodeMessage, fun h => h ▸ decodeMessage_wire_append s rest⟩

/-- L4 of R110, since a message is read back. -/
theorem wire_injective : Function.Injective (wire (F := F)) := by
  intro s u h
  have hs := decodeMessage_wire_append s []
  rw [h, decodeMessage_wire_append u []] at hs
  cases hs
  rfl

/-! ### Whole streams (R88) -/

theorem wire_ne_nil (s : Signal F) : wire s ≠ [] := List.cons_ne_nil _ _

theorem decodeStreamFuel_succ_cons_eq_ok {fuel : Nat} {b : Byte} {tail : List Byte} {ss : List (Signal F)} :
    decodeStreamFuel F (fuel + 1) (b :: tail) = .ok ss ↔
      ∃ s more us, ss = s :: us ∧ decodeMessage F (b :: tail) = .ok (s, more) ∧
        decodeStreamFuel F fuel more = .ok us := by
  rw [decodeStreamFuel]
  constructor
  · intro h
    split at h
    next s more hfirst =>
      split at h
      next us hmore =>
        cases h
        exact ⟨s, more, us, rfl, hfirst, hmore⟩
      next => cases h
    next => cases h
  · rintro ⟨s, more, us, rfl, hfirst, hmore⟩
    simp only [hfirst, hmore]

/-- Every message takes at least one byte, so the fuel never runs out. -/
theorem decodeStreamFuel_eq_ok_iff {fuel : Nat} {bs : List Byte} {ss : List (Signal F)}
    (h : bs.length ≤ fuel) : decodeStreamFuel F fuel bs = .ok ss ↔ bs = ss.flatMap wire := by
  induction fuel generalizing bs ss with
  | zero =>
    obtain rfl := List.eq_nil_of_length_eq_zero (Nat.le_zero.1 h)
    cases ss <;> simp [decodeStreamFuel, wire_ne_nil]
  | succ fuel ih =>
    cases bs with
    | nil => cases ss <;> simp [decodeStreamFuel, wire_ne_nil]
    | cons b tail =>
      have hshorter {s : Signal F} {more : List Byte} (hcut : b :: tail = wire s ++ more) :
          more.length ≤ fuel := by
        have hpos : 0 < (wire s).length := List.length_pos_iff.2 (wire_ne_nil s)
        have hlen : tail.length + 1 = (wire s).length + more.length := by
          simpa using congrArg List.length hcut
        have hfuel : tail.length + 1 ≤ fuel + 1 := h
        omega
      rw [decodeStreamFuel_succ_cons_eq_ok]
      constructor
      · rintro ⟨s, more, us, rfl, hfirst, hmore⟩
        have hcut := decodeMessage_eq_ok_iff.1 hfirst
        rw [hcut, (ih (hshorter hcut)).1 hmore, List.flatMap_cons]
      · intro hbs
        cases ss with
        | nil => cases hbs
        | cons s us =>
          rw [List.flatMap_cons] at hbs
          exact ⟨s, _, us, rfl, decodeMessage_eq_ok_iff.2 hbs, (ih (hshorter hbs)).2 rfl⟩

end

/-! ### The statements -/

/-- Settles O7: the stream's length is fuel enough. -/
theorem streamsDecodeExactlyToTheirMessages : Obligations.StreamsDecodeExactlyToTheirMessages :=
  fun _ _ _ => decodeStreamFuel_eq_ok_iff le_rfl

/-- Settles O5, from the round trip, the injectivity of `wire`, and what an `Ok` says of the call. -/
theorem codecLaws : Obligations.CodecLaws := by
  intro F
  refine ⟨decode_encode, fun _ _ h => wire_injective h, fun b x s h => ?_⟩
  obtain ⟨hopcode, hpayload⟩ := decode_eq_ok h
  exact ⟨hopcode, fun p hp => ⟨hpayload p hp, p.2⟩⟩

/-- Settles O6. -/
theorem firstMessageOfAStreamIsReadBack : Obligations.FirstMessageOfAStreamIsReadBack :=
  fun _ s rest => decodeMessage_wire_append s rest

/-- Settles O3, from the answers of `decode` and of `mkFullData` by the payload's length. -/
theorem decodeAndConstructionDomain : Obligations.DecodeAndConstructionDomain := by
  intro F bs
  refine ⟨decode_opCommAck_none, ?ignored, ?long, fun h => mkFullData_of_length h,
    fun h => mkFullData_of_length_ne h⟩
  case ignored => exact fun h => (decode_opCommAck_some bs).trans (if_pos h)
  case long =>
    exact fun h => ⟨decode_opFullData_of_length_gt h, (decode_opCommAck_some bs).trans (if_neg h.not_ge)⟩

/-- Settles O8: the first byte of each word is, or is not, the opcode byte of an instruction. -/
theorem opcodeTableWordsDecode : Obligations.OpcodeTableWordsDecode := by
  have hnone {w : Nat} (h : ∀ i : Instr, tableByte (w % 2 ^ 8) 0 ≠ encodeOpcode i) :
      decodeTableWord 8 w = none := (decodeOpcode_eq_none_iff _ _).2 h
  refine ⟨(decodeOpcode_eq_some_iff _ _ _).2 (by decide), (decodeOpcode_eq_some_iff _ _ _).2 (by decide),
    hnone ?_, hnone ?_, hnone ?_⟩
  all_goals rintro (_ | _) <;> decide

end Sys2Proof
end

section
/-! PROOF. What each agent's moves leave alone (R27, R35, R134), and the statements that follow from it: an
ended Sender is silent, a halted DFC changes nothing, `d2h` grows by acks alone, and `inv_flag` is sticky. -/

namespace Sys2Proof.Machine

variable {s t : State}

/-! ### Whose event a move answers -/

theorem ReceiverMove.pending_ofReceiver (h : ReceiverMove s t) : s.pending.ofReceiver = true := by
  obtain ⟨e, he, ⟨o, rfl⟩ | ⟨o, rfl⟩ | ⟨o, rfl⟩⟩ := h.ofReceiver <;> rw [he] <;> rfl

theorem SenderMove.pending_ofSender (h : SenderMove s t) : s.pending.ofSender = true := by
  obtain ⟨e, he, rfl | ⟨o, rfl⟩ | ⟨o, rfl⟩⟩ := h.ofSender <;> rw [he] <;> rfl

theorem Event.ofSender_eq_false {e : Event} (h : e.ofReceiver = true) : e.ofSender = false := by
  cases e with
  | rx | tx | sink => rfl
  | _ => cases h

theorem InputMove.pending_ofReceiver (h : InputMove s t) : s.pending.ofReceiver = false := by
  cases h <;> simp [Event.ofReceiver, *]

theorem InputMove.pending_ofSender (h : InputMove s t) : s.pending.ofSender = false := by
  cases h <;> simp [Event.ofSender, *]

/-- An event of the Receiver is answered by the Receiver. -/
theorem receiverMove_of_step (h : step s = .next t) (hp : s.pending.ofReceiver = true) : ReceiverMove s t := by
  obtain hr | hs | hi := step_cases h
  · exact hr
  · simpa [Event.ofSender_eq_false hp] using hs.pending_ofSender
  · simpa [hp] using hi.pending_ofReceiver

/-- An event of the Sender is answered by the Sender. -/
theorem senderMove_of_step (h : step s = .next t) (hp : s.pending.ofSender = true) : SenderMove s t := by
  obtain hr | hs | hi := step_cases h
  · simp [Event.ofSender_eq_false hr.pending_ofReceiver] at hp
  · exact hs
  · simpa [hp] using hi.pending_ofSender

/-! ### What the Receiver leaves alone -/

theorem ReceiverMove.cfg_eq (h : ReceiverMove s t) : t.cfg = s.cfg := by cases h <;> simp

theorem ReceiverMove.sender_eq (h : ReceiverMove s t) : t.sender = s.sender := by cases h <;> simp

theorem ReceiverMove.source_eq (h : ReceiverMove s t) : t.source = s.source := by cases h <;> simp

theorem ReceiverMove.now_eq (h : ReceiverMove s t) : t.now = s.now := by cases h <;> simp

theorem ReceiverMove.events_eq (h : ReceiverMove s t) : t.events = s.events.tail := by cases h <;> simp

/-- The Receiver takes bytes from `h2d` and puts none there. -/
theorem ReceiverMove.h2d_suffix (h : ReceiverMove s t) : t.h2d <:+ s.h2d := by
  cases h <;> simp [List.drop_suffix, -List.drop_one]

/-- A halted Receiver has no move (R129). -/
theorem ReceiverMove.not_halted (h : ReceiverMove s t) : s.dfc.st ≠ .halted := by cases h <;> simp [*]

/-! ### What the Sender leaves alone -/

theorem SenderMove.cfg_eq (h : SenderMove s t) : t.cfg = s.cfg := by cases h <;> simp

theorem SenderMove.dfc_eq (h : SenderMove s t) : t.dfc = s.dfc := by cases h <;> simp

theorem SenderMove.trace_eq (h : SenderMove s t) : t.trace = s.trace := by cases h <;> simp

theorem SenderMove.now_eq (h : SenderMove s t) : t.now = s.now := by cases h <;> simp

theorem SenderMove.events_eq (h : SenderMove s t) : t.events = s.events.tail := by cases h <;> simp

/-- The Sender puts bytes on `h2d` and takes none from there. -/
theorem SenderMove.h2d_prefix (h : SenderMove s t) : s.h2d <+: t.h2d := by cases h <;> simp

/-- The Sender takes bytes from `d2h` and puts none there. -/
theorem SenderMove.d2h_suffix (h : SenderMove s t) : t.d2h <:+ s.d2h := by
  cases h <;> simp [List.drop_suffix, -List.drop_one]

/-- An ended Sender has no move (R170). -/
theorem SenderMove.running (h : SenderMove s t) : s.sender.phase.running = true := by
  cases h <;> simp [Phase.running, *]

/-! ### What an input leaves alone -/

theorem InputMove.cfg_eq (h : InputMove s t) : t.cfg = s.cfg := by cases h <;> simp

theorem InputMove.sender_eq (h : InputMove s t) : t.sender = s.sender := by cases h <;> simp

theorem InputMove.source_eq (h : InputMove s t) : t.source = s.source := by cases h <;> simp

theorem InputMove.d2h_eq (h : InputMove s t) : t.d2h = s.d2h := by cases h <;> simp

theorem InputMove.events_eq (h : InputMove s t) : t.events = s.events.tail := by cases h <;> simp

theorem InputMove.h2d_prefix (h : InputMove s t) : s.h2d <+: t.h2d := by cases h <;> simp

theorem InputMove.dfc_eq (h : InputMove s t) (hp : s.pending ≠ .rst) : t.dfc = s.dfc := by
  cases h with
  | inject | elapse => rfl
  | rst hrst => exact absurd hrst hp

theorem InputMove.trace_eq (h : InputMove s t) (hp : s.pending ≠ .rst) : t.trace = s.trace := by
  cases h with
  | inject | elapse => rfl
  | rst hrst => exact absurd hrst hp

theorem InputMove.now_eq (h : InputMove s t) (hp : ∀ d, s.pending ≠ .elapse d) : t.now = s.now := by
  cases h with
  | inject | rst => rfl
  | elapse d helapse => exact absurd helapse (hp d)

/-! ### A step of the system -/

theorem step_cfg_eq (h : step s = .next t) : t.cfg = s.cfg := by
  obtain hr | hs | hi := step_cases h
  exacts [hr.cfg_eq, hs.cfg_eq, hi.cfg_eq]

/-- Every step takes its event from the script. -/
theorem step_events_eq (h : step s = .next t) : t.events = s.events.tail := by
  obtain hr | hs | hi := step_cases h
  exacts [hr.events_eq, hs.events_eq, hi.events_eq]

/-- Only the Receiver and RST change DFC and its trace. -/
theorem step_dfc_trace_eq (h : step s = .next t) (hr : ¬ ReceiverMove s t) (hrst : s.pending ≠ .rst) :
    t.dfc = s.dfc ∧ t.trace = s.trace := by
  obtain hr' | hs | hi := step_cases h
  · exact absurd hr' hr
  · exact ⟨hs.dfc_eq, hs.trace_eq⟩
  · exact ⟨hi.dfc_eq hrst, hi.trace_eq hrst⟩

/-- DFC and its trace change by a move of the Receiver, or are reset. -/
theorem step_device_cases (h : step s = .next t) :
    ReceiverMove s t ∨ t = s.advance.rst ∨ t.dfc = s.dfc ∧ t.trace = s.trace := by
  obtain hr | hs | hi := step_cases h
  · exact .inl hr
  · exact .inr (.inr ⟨hs.dfc_eq, hs.trace_eq⟩)
  · cases hi with
    | rst => exact .inr (.inl rfl)
    | inject | elapse => exact .inr (.inr ⟨rfl, rfl⟩)

/-- Only the Sender changes the Sender and the frame source. -/
theorem step_sender_source_eq (h : step s = .next t) (hs : ¬ SenderMove s t) :
    t.sender = s.sender ∧ t.source = s.source := by
  obtain hr | hs' | hi := step_cases h
  · exact ⟨hr.sender_eq, hr.source_eq⟩
  · exact absurd hs' hs
  · exact ⟨hi.sender_eq, hi.source_eq⟩

/-- Settles O36, from what the moves of each agent leave alone. -/
theorem agentsKeepToTheirOwnState : Obligations.AgentsKeepToTheirOwnState := by
  intro s t h
  refine ⟨step_cfg_eq h, fun hp => ?receiver, fun hp => ?sender, fun hp => ?clock⟩
  case receiver => exact step_dfc_trace_eq h fun hr => by simp [hr.pending_ofReceiver] at hp
  case sender => exact step_sender_source_eq h fun hs => by simp [hs.pending_ofSender] at hp
  case clock =>
    obtain hr | hs | hi := step_cases h
    exacts [hr.now_eq, hs.now_eq, hi.now_eq hp]

/-- Settles O44: an ended Sender has no move, so bytes leave `h2d` by the Receiver or are injected. -/
theorem endedSenderIsSilent : Obligations.EndedSenderIsSilent := by
  intro s t hend h
  have hno : ¬ SenderMove s t := fun hs => by simp [hs.running] at hend
  obtain ⟨hsender, hsource⟩ := step_sender_source_eq h hno
  refine ⟨hsender, hsource, ?_⟩
  obtain hr | hs | hi := step_cases h
  · exact .inl hr.h2d_suffix
  · exact absurd hs hno
  · cases hi with
    | inject bs hp => exact .inr ⟨bs, hp, rfl⟩
    | elapse | rst => exact .inl (List.suffix_refl s.h2d)

/-! ### What reaches the host (R135) -/

/-- The Receiver writes to `d2h` only in `Acking`, and only the ack. -/
theorem ReceiverMove.d2h_eq_or_acked (h : ReceiverMove s t) :
    t.d2h = s.d2h ∨ s.dfc.st = .acking ∧ t.dfc.st = .idle ∧ t.d2h = s.d2h ++ [Config.opCommAck] := by
  cases h with
  | ackAccepted hst => exact .inr ⟨hst, rfl, rfl⟩
  | _ => left; simp

/-- Settles O34: only an accepted ack makes `d2h` longer. -/
theorem onlyAcksReachTheHost : Obligations.OnlyAcksReachTheHost := by
  intro s t h
  obtain hr | hs | hi := step_cases h
  · exact hr.d2h_eq_or_acked.imp_left fun heq : t.d2h = s.d2h => heq ▸ List.suffix_refl t.d2h
  · exact .inl hs.d2h_suffix
  · exact .inl (hi.d2h_eq ▸ List.suffix_refl s.d2h)

/-! ### The flag (R25) -/

/-- The Receiver's moves keep `inv_flag`, but for an invalid opcode byte read in `Idle`. -/
theorem ReceiverMove.invFlag_eq_or_invalid (h : ReceiverMove s t) :
    t.dfc.invFlag = s.dfc.invFlag ∨ t.dfc.invFlag = true ∧ s.dfc.st = .idle ∧
      ∃ b : Byte, s.pending = .rx (.data [b]) ∧ b ≠ Config.opFullData ∧ b ≠ Config.opCommAck ∧
        t.dfc.faultByte = b := by
  cases h with
  | idleInvalid b hst hp _ hfull hcomm =>
    exact .inr ⟨invalidOpcode_dfc_invFlag _ b, hst, b, hp, hfull, hcomm, invalidOpcode_dfc_faultByte _ b⟩
  | _ => left; simp

/-- Settles O32: the flag changes by an invalid opcode alone, which sets it. -/
theorem invalidFlagIsSticky : Obligations.InvalidFlagIsSticky := by
  intro s t hrst h
  by_cases hr : ReceiverMove s t
  · obtain hkeep | ⟨hset, hst, hb⟩ := hr.invFlag_eq_or_invalid
    · rw [hkeep]
      exact ⟨id, fun hclear hset => absurd hset (by simp [hclear])⟩
    · exact ⟨fun _ => hset, fun _ _ => ⟨hst, hb⟩⟩
  · rw [(step_dfc_trace_eq h hr hrst).1]
    exact ⟨id, fun hclear hset => absurd hset (by simp [hclear])⟩

/-! ### A halted DFC (R129, R198) -/

/-- No step but RST wakes a halted DFC or lets it write. -/
theorem step_of_halted (hst : s.dfc.st = .halted) (hrst : s.pending ≠ .rst) (h : step s = .next t) :
    t.dfc = s.dfc ∧ t.trace = s.trace ∧ s.h2d <+: t.h2d ∧ t.d2h <:+ s.d2h := by
  have hno : ¬ ReceiverMove s t := fun hr => hr.not_halted hst
  obtain ⟨hdfc, htrace⟩ := step_dfc_trace_eq h hno hrst
  obtain hr | hs | hi := step_cases h
  · exact absurd hr hno
  · exact ⟨hdfc, htrace, hs.h2d_prefix, hs.d2h_suffix⟩
  · exact ⟨hdfc, htrace, hi.h2d_prefix, hi.d2h_eq ▸ List.suffix_refl s.d2h⟩

/-- Settles O23. -/
theorem haltedChangesNothingUntilReset : Obligations.HaltedChangesNothingUntilReset := by
  intro s t hst hrst h
  exact ⟨by simp only [State.request, hst], step_of_halted hst hrst h⟩

/-- Without a reset a halted DFC stays as it is, however long the system runs. -/
theorem runFor_of_halted {es more : List Event} {k : Nat} (hst : s.dfc.st = .halted)
    (hev : s.events = es ++ more) (hes : ∀ e ∈ es, e ≠ .rst) (hk : k ≤ es.length)
    (h : runFor k s = .next t) :
    t.cfg = s.cfg ∧ t.dfc = s.dfc ∧ t.trace = s.trace ∧ t.d2h <:+ s.d2h := by
  induction k generalizing s es with
  | zero => cases h; exact ⟨rfl, rfl, rfl, List.suffix_refl _⟩
  | succ k ih =>
    cases es with
    | nil => simp at hk
    | cons e es =>
      rw [runFor_succ] at h
      split at h
      next u hu =>
        obtain ⟨he, hes⟩ := List.forall_mem_cons.1 hes
        have hp : s.pending = e := State.pending_of_events hev
        obtain ⟨hdfc, htrace, -, hd2h⟩ := step_of_halted hst (hp ▸ he) hu
        have huev : u.events = es ++ more := by rw [step_events_eq hu, hev]; rfl
        obtain ⟨hcfg', hdfc', htrace', hd2h'⟩ := ih (hdfc ▸ hst) huev hes (by simpa using hk) h
        exact ⟨hcfg'.trans (step_cfg_eq hu), hdfc'.trans hdfc, htrace'.trans htrace, hd2h'.trans hd2h⟩
      next => cases h
      next => cases h

/-- Settles O24: the sink's failure halts DFC with the frame in `buf`, and a halted DFC stays as it is. -/
theorem failedFrameIsNeitherRetriedNorAcknowledged : Obligations.FailedFrameIsNeitherRetriedNorAcknowledged := by
  intro s bs es more hst hframe hev hes
  have hfail : step s = .next (s.advance.raiseHalt .sinkFault none) :=
    step_of_receiverMove (.applyFail bs hst hframe (State.pending_of_events hev))
  have hhalted : (s.advance.raiseHalt .sinkFault none).frame = some bs := hframe
  refine ⟨⟨_, hfail, rfl, rfl, hhalted⟩, fun k t hk hrun => ?_⟩
  rw [Nat.add_comm, runFor_succ_of_step k hfail] at hrun
  have hleft : (s.advance.raiseHalt .sinkFault none).events = es ++ more := by simp [hev]
  obtain ⟨hcfg, hdfc, htrace, hd2h⟩ := runFor_of_halted rfl hleft hes hk hrun
  refine ⟨by rw [hdfc]; rfl, by rw [hdfc]; rfl, ?_, htrace, hd2h⟩
  rw [State.frame, hcfg, hdfc]
  exact hhalted

/-! ### A host that waits (R172) -/

/-- In step 4 with no deadline and nothing to read, the Sender goes on waiting unless its read fails. -/
theorem SenderMove.awaitAck_of_d2h_nil (h : SenderMove s t) (hph : s.sender.phase = .awaitAck)
    (hd2h : s.d2h = []) (hdl : s.cfg.ackDeadline = none) (hfatal : s.pending.hostFatal = false) :
    t.sender.phase = .awaitAck := by
  cases h with
  | ackTimeout | ackEmpty => rw [retryAck_of_none (s := s.advance) hdl]; exact hph
  | ackRead b _ _ hq => simp [hd2h] at hq
  | ackError c _ hp => simp [hp, Event.hostFatal] at hfatal
  | _ => simp_all

/-- Settles O51: a halted DFC writes nothing, so the host's read finds nothing. -/
theorem hostWaitsForeverOnAHaltedDevice : Obligations.HostWaitsForeverOnAHaltedDevice := by
  intro s t hst hd2h hph hdl hrst hfatal h
  obtain ⟨hdfc, -, -, hsuffix⟩ := step_of_halted hst hrst h
  refine ⟨hdfc ▸ hst, List.suffix_nil.1 (hd2h ▸ hsuffix), ?_, step_cfg_eq h ▸ hdl⟩
  by_cases hs : SenderMove s t
  · exact hs.awaitAck_of_d2h_nil hph hd2h hdl hfatal
  · rw [(step_sender_source_eq h hs).1, hph]

end Sys2Proof.Machine
end

section
/-! PROOF. The invariant of DFC (R28). It speaks of the parameters, DFC and the trace alone, so it is kept by
whatever leaves these alone (`Inv.of_eq`); one lemma per update of table R130 keeps it, and every step is one
of these. -/

namespace Sys2Proof.Machine

variable {s t : State}

/-! ### What the invariant says -/

theorem Inv.of_eq (h : Inv s) (hcfg : t.cfg = s.cfg) (hdfc : t.dfc = s.dfc) (htrace : t.trace = s.trace) :
    Inv t := by
  cases s
  cases t
  cases hcfg
  cases hdfc
  cases htrace
  exact ⟨h.params, h.counter_le, h.recv_lt, h.full_frame, h.assembled, h.cause_none_iff, h.halt_policy,
    h.buf_wf, h.buf_bound, h.fault_byte⟩

theorem Inv.one_le_frameSize (h : Inv s) : 1 ≤ s.cfg.frameSize := by
  have hwf := h.params
  simp only [Params.wf, Bool.and_eq_true, decide_eq_true_eq] at hwf
  obtain ⟨⟨⟨hF, -⟩, -⟩, -⟩ := hwf
  exact hF

theorem Inv.haltCause_none (h : Inv s) (hst : s.dfc.st ≠ .halted) : s.dfc.haltCause = .none :=
  h.cause_none_iff.2 hst

/-- I9: under the policy `halt` a running DFC has read no invalid opcode. -/
theorem Inv.invFlag_false (h : Inv s) (hst : s.dfc.st ≠ .halted) (hp : s.cfg.policy = .halt) :
    s.dfc.invFlag = false :=
  Bool.eq_false_iff.2 fun hset => hst (h.halt_policy hp hset).1

/-- I5: in `Applying` every element of the buffer is written. -/
theorem Inv.frame_of_applying (h : Inv s) (hst : s.dfc.st = .applying) :
    s.frame = some (payloadSoFar s.trace) := by
  rw [State.frame, ← h.full_frame (.inl hst)]
  exact h.assembled (.inr (.inl hst))

/-! ### At reset -/

/-- The reset values meet the invariant, whatever the parameters (R33). -/
theorem inv_of_reset (hcfg : s.cfg.wf = true) (hdfc : s.dfc = Dfc.reset) : Inv s := by
  constructor <;> simp [hcfg, hdfc, Dfc.reset]

theorem Config.hardware_wf : Config.hardware.wf = true := by
  cases h : Config.targetIntervalPred <;> simp [Params.wf, Config.hardware, Config.frameSize, h]

/-- Settles O28. -/
theorem resetMeetsTheInvariant : Obligations.ResetMeetsTheInvariant := inv_of_reset Config.hardware_wf rfl

/-! ### Every update keeps it -/

/-- R196. -/
theorem Inv.raiseHalt {c : HaltCause} (h : Inv s) (hst : s.dfc.st ≠ .halted) (hc : c ≠ .none) :
    Inv (s.raiseHalt c none) where
  params := by simpa using h.params
  counter_le := by simpa using h.counter_le
  recv_lt := by simp
  full_frame := by simp
  assembled := by simp
  cause_none_iff := by simpa using hc
  halt_policy := by
    intro hp hset
    rw [State.raiseHalt_cfg] at hp
    rw [State.raiseHalt_none_invFlag, h.invFlag_false hst hp] at hset
    cases hset
  buf_wf := by simpa using h.buf_wf
  buf_bound := by simpa using h.buf_bound
  fault_byte := by simpa using h.fault_byte

/-- R122: in `Idle` nothing is said of the trace. -/
theorem Inv.fetched (h : Inv s) (hst : s.dfc.st = .idle) (b : Byte) : Inv (s.fetched b) where
  params := h.params
  counter_le := h.counter_le
  recv_lt := h.recv_lt
  full_frame := h.full_frame
  assembled := by simp [hst]
  cause_none_iff := h.cause_none_iff
  halt_policy := h.halt_policy
  buf_wf := h.buf_wf
  buf_bound := h.buf_bound
  fault_byte := h.fault_byte

/-- R123: a message begins with no payload byte. -/
theorem Inv.dispatchFulldata (h : Inv s) (hst : s.dfc.st = .idle) (hpay : payloadSoFar s.trace = []) :
    Inv (dispatchFulldata s) where
  params := h.params
  counter_le := Nat.zero_le _
  recv_lt _ := h.one_le_frameSize
  full_frame := by simp
  assembled _ := by simp [hpay]
  cause_none_iff := by simpa using h.haltCause_none (by simp [hst])
  halt_policy := by
    intro hp hset
    rw [dispatchFulldata_dfc_invFlag, h.invFlag_false (by simp [hst]) hp] at hset
    cases hset
  buf_wf := h.buf_wf
  buf_bound := h.buf_bound
  fault_byte := h.fault_byte

/-- R125. -/
theorem Inv.invalidOpcode {b : Byte} (h : Inv s) (hst : s.dfc.st = .idle) (hfull : b ≠ Config.opFullData)
    (hcomm : b ≠ Config.opCommAck) : Inv (invalidOpcode b s) := by
  have hst' : (Machine.invalidOpcode b s).dfc.st = if s.cfg.policy = .halt then .halted else .idle := by
    rw [invalidOpcode_dfc_st, hst]
  constructor
  case params => simpa using h.params
  case counter_le => simpa using h.counter_le
  case recv_lt | full_frame | assembled =>
    rw [hst']
    split_ifs <;> simp
  case cause_none_iff =>
    rw [hst', invalidOpcode_dfc_haltCause]
    split_ifs
    · simp
    · simpa using h.haltCause_none (by simp [hst])
  case halt_policy =>
    intro hp _
    rw [invalidOpcode_cfg] at hp
    rw [hst', invalidOpcode_dfc_haltCause, if_pos hp, if_pos hp]
    exact ⟨rfl, rfl⟩
  case buf_wf => simpa using h.buf_wf
  case buf_bound => simpa using h.buf_bound
  case fault_byte => simpa using ⟨hfull, hcomm⟩

/-- R126: the bytes read join the payload at its end, in the buffer and in the trace. -/
theorem Inv.storePayload {bs : List Byte} (h : Inv s) (hst : s.dfc.st = .recv) (hroom : bs.length ≤ s.room) :
    Inv (storePayload bs s) := by
  have hn := h.counter_le
  have hlt := h.recv_lt hst
  have hle : s.dfc.n + bs.length ≤ s.cfg.frameSize := by rw [State.room] at hroom; omega
  by_cases hbs : bs = []
  · subst hbs
    exact h
  have hst' : (Machine.storePayload bs s).dfc.st =
      if s.dfc.n + bs.length = s.cfg.frameSize then .applying else .recv := by
    simp [storePayload_dfc_st, hst, hbs]
  constructor
  case params => simpa using h.params
  case counter_le => simpa using hle
  case recv_lt =>
    rw [hst', storePayload_dfc_n, storePayload_cfg]
    split_ifs with hcomplete
    · simp
    · exact fun _ => by omega
  case full_frame =>
    rw [hst', storePayload_dfc_n, storePayload_cfg]
    split_ifs with hcomplete
    · exact fun _ => hcomplete
    · simp
  case assembled =>
    intro _
    rw [storePayload_dfc_buf, storePayload_dfc_n, storePayload_trace, if_neg hbs, payloadSoFar_snoc]
    exact Memory.readBytes_writeBytes_append (h.assembled (.inl hst))
  case cause_none_iff =>
    rw [hst', storePayload_dfc_haltCause, h.haltCause_none (by simp [hst])]
    split_ifs <;> simp
  case halt_policy =>
    intro hp hset
    rw [storePayload_cfg] at hp
    rw [storePayload_dfc_invFlag, h.invFlag_false (by simp [hst]) hp] at hset
    cases hset
  case buf_wf => simpa using Memory.wf_writeBytes h.buf_wf s.dfc.n bs
  case buf_bound =>
    intro a ha
    rw [storePayload_cfg] at ha
    rw [storePayload_dfc_buf, Memory.read_writeBytes, if_neg (by omega)]
    exact h.buf_bound a ha
  case fault_byte => simpa using h.fault_byte

/-- R127: the frame is handed over as it is. -/
theorem Inv.appliedFrame (h : Inv s) (hst : s.dfc.st = .applying) (p : List Byte) : Inv (s.appliedFrame p) where
  params := h.params
  counter_le := h.counter_le
  recv_lt := by simp [State.appliedFrame]
  full_frame _ := h.full_frame (.inl hst)
  assembled _ := by
    simpa [State.appliedFrame, payloadSoFar_snoc] using h.assembled (.inr (.inl hst))
  cause_none_iff := by simpa [State.appliedFrame] using h.haltCause_none (by simp [hst])
  halt_policy := by
    intro hp hset
    exact absurd hset (by simpa [State.appliedFrame] using h.invFlag_false (by simp [hst]) hp)
  buf_wf := h.buf_wf
  buf_bound := h.buf_bound
  fault_byte := h.fault_byte

/-- R128: back in `Idle` nothing is said of the trace. -/
theorem Inv.acknowledged (h : Inv s) (hst : s.dfc.st = .acking) : Inv s.acknowledged where
  params := h.params
  counter_le := h.counter_le
  recv_lt := by simp [State.acknowledged]
  full_frame := by simp [State.acknowledged]
  assembled := by simp [State.acknowledged]
  cause_none_iff := by simpa [State.acknowledged] using h.haltCause_none (by simp [hst])
  halt_policy := by
    intro hp hset
    exact absurd hset (by simpa [State.acknowledged] using h.invFlag_false (by simp [hst]) hp)
  buf_wf := h.buf_wf
  buf_bound := h.buf_bound
  fault_byte := h.fault_byte

/-! ### Every step keeps it -/

theorem ReceiverMove.inv (hm : ReceiverMove s t) (h : Inv s) : Inv t := by
  have hread (k : Nat) : Inv (s.advance.popH2d k) := h.of_eq rfl rfl rfl
  have hwrite (bs : List Byte) : Inv (s.advance.pushD2h bs) := h.of_eq rfl rfl rfl
  have hadvance : Inv s.advance := h.of_eq rfl rfl rfl
  have hrunning := hm.not_halted
  cases hm with
  | idleNoData | idleEmpty | recvNoData => exact hadvance
  | idleFulldata hst => exact (h.fetched hst _).dispatchFulldata hst (by simp [payloadSoFar_snoc])
  | idleCommack hst => exact h.fetched hst _
  | idleInvalid b hst _ _ hfull hcomm => exact (h.fetched hst b).invalidOpcode hst hfull hcomm
  | idleError c | recvError c => exact (hread c).raiseHalt hrunning (by simp)
  | recvData bs hst _ _ hroom => exact (hread bs.length).storePayload hst hroom
  | applyOk bs hst => exact h.appliedFrame hst bs
  | applyFail => exact hadvance.raiseHalt hrunning (by simp)
  | ackRefused => exact hwrite []
  | ackAccepted hst => exact h.acknowledged hst
  | ackError => exact (hwrite []).raiseHalt hrunning (by simp)

/-- Settles O29: the Receiver's moves keep the invariant, RST establishes it, and nothing else touches what
it speaks of. -/
theorem everyStepKeepsTheInvariant : Obligations.EveryStepKeepsTheInvariant := by
  intro s t h hstep
  obtain hr | rfl | ⟨hdfc, htrace⟩ := step_device_cases hstep
  · exact hr.inv h
  · exact inv_of_reset h.params rfl
  · exact h.of_eq (step_cfg_eq hstep) hdfc htrace

/-! ### Bounds (R22, R137) -/

/-- Settles O35, by the two halves of the Galois connection between `clog` and powers of two. -/
theorem counterFitsItsWidth : Obligations.CounterFitsItsWidth := by
  constructor
  · intro s h
    have hwidth : s.cfg.frameSize + 1 ≤ 2 ^ cntW s.cfg.frameSize := Nat.le_pow_clog (by simp) _
    have hn := h.counter_le
    omega
  · exact fun F w h => Nat.clog_le_of_le_pow h

/-! ### One acknowledgement per frame (R135) -/

theorem AcksMatchFrames.of_eq (h : AcksMatchFrames s) (hdfc : t.dfc = s.dfc) (htrace : t.trace = s.trace) :
    AcksMatchFrames t := by
  unfold AcksMatchFrames
  rw [hdfc, htrace]
  exact h

theorem ReceiverMove.acksMatchFrames (hm : ReceiverMove s t) (h : AcksMatchFrames s) : AcksMatchFrames t := by
  unfold AcksMatchFrames at h
  cases hm with
  | idleNoData hst | idleEmpty hst | recvNoData hst | ackRefused hst => exact h
  | idleFulldata hst | idleCommack hst | idleError _ hst | recvError _ hst | applyOk _ hst | applyFail _ hst
  | ackAccepted hst | ackError hst =>
    simp only [hst] at h
    simp [AcksMatchFrames, applied_snoc, acksSent_snoc, hst, h]
  | idleInvalid b hst =>
    simp only [hst] at h
    unfold AcksMatchFrames
    rw [invalidOpcode_dfc_st, invalidOpcode_trace]
    split_ifs
    all_goals
      simp only [State.fetched_trace, applied_snoc, acksSent_snoc]
      simp [hst, h]
  | recvData bs hst =>
    simp only [hst] at h
    unfold AcksMatchFrames
    rw [storePayload_dfc_st, storePayload_trace]
    by_cases hbs : bs = []
    · simpa [hst, hbs] using h
    · rw [if_neg hbs]
      split_ifs <;> simp [applied_snoc, acksSent_snoc, hst, h]

theorem acksMatchFrames_of_reset (hst : s.dfc.st = .idle) (htrace : s.trace = []) : AcksMatchFrames s := by
  unfold AcksMatchFrames
  simp only [hst, htrace]
  rfl

/-- Settles O33: an ack follows a frame in the Receiver's moves, and nothing else writes the trace. -/
theorem acksMatchAppliedFrames : Obligations.AcksMatchAppliedFrames := by
  refine ⟨acksMatchFrames_of_reset rfl rfl, fun s t h hstep => ?_⟩
  obtain hr | rfl | ⟨hdfc, htrace⟩ := step_device_cases hstep
  · exact hr.acksMatchFrames h
  · exact acksMatchFrames_of_reset rfl rfl
  · exact h.of_eq hdfc htrace

end Sys2Proof.Machine
end

section
/-! PROOF. Why a step can stop (R33, R53, R174). The two faults of the model stand on one path of `recvStep` and
one of `applyStep`, which the invariant excludes; and every answer that fits the transaction asked for is a row
of table R130 or a step of the Sender, so that the free choices always give a next state. -/

namespace Sys2Proof.Machine

variable {s t : State} {f : Fault}

/-! ### Where a step can fault -/

theorem localStep_ne_fault (g : State → State) : localStep s g ≠ .fault f := by
  unfold localStep
  split <;> simp

theorem pullFrame_ne_fault : pullFrame s ≠ .fault f := by
  match h : s.source with
  | [] | .failure :: _ => simp only [pullFrame, h]; exact localStep_ne_fault _
  | .frame p :: rest =>
    rw [pullFrame_frame h]
    split_ifs
    · exact localStep_ne_fault _
    · simp

theorem senderStep_ne_fault : senderStep s ≠ .fault f := by
  unfold senderStep
  split
  case h_1 => exact pullFrame_ne_fault
  case h_2 => unfold writeOpcodeStep; split <;> simp
  case h_4 => unfold writePayloadStep; split <;> simp
  case h_5 => unfold awaitAckStep; split <;> simp
  case h_9 | h_10 => simp
  all_goals exact localStep_ne_fault _

theorem recvStep_ne_fault (hn : s.dfc.n < s.cfg.frameSize) : recvStep s ≠ .fault f := by
  rw [recvStep, if_pos hn]
  split <;> simp

theorem applyStep_ne_fault {bs : List Byte} (hframe : s.frame = some bs) : applyStep s ≠ .fault f := by
  simp only [applyStep, hframe]
  split <;> simp

theorem ackStep_ne_fault : ackStep s ≠ .fault f := by
  unfold ackStep
  split <;> simp

/-- FULLDATA faults neither where there is room for payload nor where the frame is written. -/
theorem execFulldata_ne_fault (hrecv : s.dfc.st = .recv → s.dfc.n < s.cfg.frameSize)
    (happly : s.dfc.st = .applying → ∃ bs, s.frame = some bs) : execFulldata s ≠ .fault f := by
  unfold execFulldata
  split
  case h_2 hst => exact recvStep_ne_fault (hrecv hst)
  case h_3 hst =>
    obtain ⟨bs, hframe⟩ := happly hst
    exact applyStep_ne_fault hframe
  case h_4 => exact ackStep_ne_fault
  case h_1 | h_5 => simp

theorem fetch_ne_fault : fetch s ≠ .settled (.fault f) := by
  unfold fetch
  split <;> simp

/-- The fetch leaves the control state, so FULLDATA is dispatched. -/
theorem dfc_eq_of_fetch {b : Byte} (h : fetch s = .opcode b t) : t.dfc = s.dfc := by
  unfold fetch at h
  split at h <;> cases h
  next hx =>
    obtain ⟨-, -, rfl⟩ := rxRead_eq_some.1 hx
    rfl

theorem dispatchOpcode_ne_fault {b : Byte} (hst : s.dfc.st = .idle) : dispatchOpcode b s ≠ .fault f := by
  unfold dispatchOpcode
  split
  next i _ =>
    cases i with
    | fulldata => exact execFulldata_ne_fault (by simp [hst]) (by simp [hst])
    | commack => simp [exec, execCommack]
  next => simp

theorem receiverStep_ne_fault (hrecv : s.dfc.st = .recv → s.dfc.n < s.cfg.frameSize)
    (happly : s.dfc.st = .applying → ∃ bs, s.frame = some bs) : receiverStep s ≠ .fault f := by
  unfold receiverStep
  split
  next hst =>
    split
    next r hr => exact fun hfault => fetch_ne_fault (hfault ▸ hr)
    next b t ht => exact dispatchOpcode_ne_fault (dfc_eq_of_fetch ht ▸ hst)
  next =>
    split
    next i _ =>
      cases i with
      | fulldata => exact execFulldata_ne_fault hrecv happly
      | commack => simp [exec, execCommack]
    next => simp

/-- Settles O30: the two paths that fault need `n >= FRAME_SIZE` in `Recv` or an unwritten element in
`Applying`. -/
theorem noStepFaultsUnderTheInvariant : Obligations.NoStepFaultsUnderTheInvariant := by
  intro s f h
  have hreceiver : receiverStep s ≠ .fault f :=
    receiverStep_ne_fault h.recv_lt fun hst => ⟨_, h.frame_of_applying hst⟩
  unfold step
  split
  case h_1 | h_2 | h_3 => exact hreceiver
  case h_4 | h_5 | h_6 => exact senderStep_ne_fault
  all_goals simp

/-! ### Every outcome has its move -/

theorem exists_move_idle {o : RxOutcome} (hst : s.dfc.st = .idle) (hp : s.pending = .rx o)
    (hfits : rxFits s.h2d 1 o = true) : ∃ t, ReceiverMove s t := by
  cases o with
  | noData => exact ⟨_, .idleNoData hst hp⟩
  | hardError c => exact ⟨_, .idleError c hst hp⟩
  | data bs =>
    obtain ⟨hlen, hq⟩ := rxFits_data.1 hfits
    obtain rfl | ⟨b, rfl, hb⟩ := prefix_length_one hlen hq
    · exact ⟨_, .idleEmpty hst hp⟩
    by_cases hfull : b = Config.opFullData
    · subst hfull
      exact ⟨_, .idleFulldata hst hp hb⟩
    by_cases hcomm : b = Config.opCommAck
    · subst hcomm
      exact ⟨_, .idleCommack hst hp hb⟩
    · exact ⟨_, .idleInvalid b hst hp hb hfull hcomm⟩

theorem exists_move_recv {o : RxOutcome} (hst : s.dfc.st = .recv) (hn : s.dfc.n < s.cfg.frameSize)
    (hp : s.pending = .rx o) (hfits : rxFits s.h2d s.room o = true) : ∃ t, ReceiverMove s t := by
  cases o with
  | noData => exact ⟨_, .recvNoData hst hn hp⟩
  | hardError c => exact ⟨_, .recvError c hst hn hp⟩
  | data bs =>
    obtain ⟨hlen, hq⟩ := rxFits_data.1 hfits
    exact ⟨_, .recvData bs hst hn hp hlen hq⟩

theorem exists_move_applying {bs : List Byte} {o : SinkOutcome} (hst : s.dfc.st = .applying)
    (hframe : s.frame = some bs) (hp : s.pending = .sink o) : ∃ t, ReceiverMove s t := by
  cases o with
  | ok => exact ⟨_, .applyOk bs hst hframe hp⟩
  | fail => exact ⟨_, .applyFail bs hst hframe hp⟩

theorem exists_move_acking {o : TxOutcome} (hst : s.dfc.st = .acking) (hp : s.pending = .tx o)
    (hfits : txFits 1 o = true) : ∃ t, ReceiverMove s t := by
  cases o with
  | hardError => exact ⟨_, .ackError hst hp⟩
  | accepted k =>
    obtain rfl | rfl := Nat.le_one_iff_eq_zero_or_eq_one.1 (txFits_accepted.1 hfits)
    · exact ⟨_, .ackRefused hst hp⟩
    · exact ⟨_, .ackAccepted hst hp⟩

theorem exists_move_ready (hph : s.sender.phase = .ready) (hwf : SourceWf s) (hp : s.pending = .hostLocal) :
    ∃ t, SenderMove s t := by
  match h : s.source with
  | [] => exact ⟨_, .exhausted hph h hp⟩
  | .failure :: rest => exact ⟨_, .sourceFailed rest hph h hp⟩
  | .frame p :: rest => exact ⟨_, .pulled p rest hph h (hwf p (by simp [h])) hp⟩

theorem exists_move_writeOpcode {o : TxOutcome} (hph : s.sender.phase = .writeOpcode)
    (hp : s.pending = .hostTx o) (hfits : txFits 1 o = true) : ∃ t, SenderMove s t := by
  cases o with
  | hardError => exact ⟨_, .opcodeError hph hp⟩
  | accepted k =>
    obtain rfl | rfl := Nat.le_one_iff_eq_zero_or_eq_one.1 (txFits_accepted.1 hfits)
    · exact ⟨_, .opcodeRefused hph hp⟩
    · exact ⟨_, .opcodeWritten hph hp⟩

theorem exists_move_guardDelay {wake : Nat} (hph : s.sender.phase = .guardDelay wake)
    (hp : s.pending = .hostLocal) : ∃ t, SenderMove s t := by
  obtain hw | hw := Nat.lt_or_ge s.now wake
  · exact ⟨_, .guarding wake hph hw hp⟩
  · exact ⟨_, .guarded wake hph hw hp⟩

theorem exists_move_writePayload {m : Nat} {o : TxOutcome} (hph : s.sender.phase = .writePayload m)
    (hp : s.pending = .hostTx o) (hfits : txFits (s.sender.payload.drop m).length o = true) :
    ∃ t, SenderMove s t := by
  cases o with
  | hardError => exact ⟨_, .payloadError m hph hp⟩
  | accepted k =>
    have hk := txFits_accepted.1 hfits
    by_cases hm : m + k = s.sender.payload.length
    · exact ⟨_, .payloadDone m k hph hp hk hm⟩
    · exact ⟨_, .payloadPart m k hph hp hk hm⟩

theorem exists_move_awaitAck {o : RxOutcome} (hph : s.sender.phase = .awaitAck) (hp : s.pending = .hostRx o)
    (hfits : rxFits s.d2h 1 o = true) : ∃ t, SenderMove s t := by
  cases o with
  | noData => exact ⟨_, .ackTimeout hph hp⟩
  | hardError c => exact ⟨_, .ackError c hph hp⟩
  | data bs =>
    obtain ⟨hlen, hq⟩ := rxFits_data.1 hfits
    obtain rfl | ⟨b, rfl, hb⟩ := prefix_length_one hlen hq
    · exact ⟨_, .ackEmpty hph hp⟩
    · exact ⟨_, .ackRead b hph hp hb⟩

theorem exists_move_checkAck {b : Byte} (hph : s.sender.phase = .checkAck b) (hp : s.pending = .hostLocal) :
    ∃ t, SenderMove s t := by
  by_cases hb : b = Config.opCommAck
  · subst hb
    exact ⟨_, .acked hph hp⟩
  · exact ⟨_, .notAnAck b hph hb hp⟩

theorem exists_move_pace (hph : s.sender.phase = .pace) (hp : s.pending = .hostLocal) :
    ∃ t, SenderMove s t := by
  cases hti : s.cfg.targetInterval with
  | none => exact ⟨_, .paceNone hph hti hp⟩
  | some d =>
    obtain hd | hd := Nat.lt_or_ge (s.now - s.sender.t0) d
    · exact ⟨_, .paceSleep d hph hti hd hp⟩
    · exact ⟨_, .paceLate d hph hti hd hp⟩

theorem exists_move_pacingSleep {wake : Nat} (hph : s.sender.phase = .pacingSleep wake)
    (hp : s.pending = .hostLocal) : ∃ t, SenderMove s t := by
  obtain hw | hw := Nat.lt_or_ge s.now wake
  · exact ⟨_, .sleeping wake hph hw hp⟩
  · exact ⟨_, .woken wake hph hw hp⟩

/-! ### The free choices (R54, R56) -/

theorem exists_step_of_receiverMove (h : ∃ t, ReceiverMove s t) : ∃ t, step s = .next t :=
  h.imp fun _ => step_of_receiverMove

theorem exists_step_of_senderMove (h : ∃ t, SenderMove s t) : ∃ t, step s = .next t :=
  h.imp fun _ => step_of_senderMove

/-- The turn of an agent without a step lets time pass (assumption 7). -/
theorem exists_step_of_elapse {d : Nat} (hp : s.pending = .elapse d) : ∃ t, step s = .next t :=
  ⟨_, step_of_inputMove (.elapse d hp)⟩

theorem exists_step_of_freeReceiverEvent (h : Inv s) (hp : s.pending = s.freeReceiverEvent) :
    ∃ t, step s = .next t := by
  simp only [State.freeReceiverEvent, State.request] at hp
  cases hst : s.dfc.st with
  | idle =>
    simp only [hst] at hp
    exact exists_step_of_receiverMove (exists_move_idle hst hp (rxFits_rxAnswer _ _ _))
  | recv =>
    simp only [hst] at hp
    exact exists_step_of_receiverMove (exists_move_recv hst (h.recv_lt hst) hp (rxFits_rxAnswer _ _ _))
  | applying =>
    simp only [hst] at hp
    exact exists_step_of_receiverMove (exists_move_applying hst (h.frame_of_applying hst) hp)
  | acking =>
    simp only [hst] at hp
    exact exists_step_of_receiverMove (exists_move_acking hst hp (txFits_txAnswer _ _))
  | halted =>
    simp only [hst] at hp
    exact exists_step_of_elapse hp

theorem exists_step_of_freeSenderEvent (hwf : SourceWf s) (hp : s.pending = s.freeSenderEvent) :
    ∃ t, step s = .next t := by
  unfold State.freeSenderEvent at hp
  cases hph : s.sender.phase <;> simp only [hph] at hp
  case ready => exact exists_step_of_senderMove (exists_move_ready hph hwf hp)
  case writeOpcode => exact exists_step_of_senderMove (exists_move_writeOpcode hph hp (txFits_txAnswer _ _))
  case guardDelay => exact exists_step_of_senderMove (exists_move_guardDelay hph hp)
  case writePayload m =>
    rw [← List.length_drop] at hp
    exact exists_step_of_senderMove (exists_move_writePayload hph hp (txFits_txAnswer _ _))
  case awaitAck => exact exists_step_of_senderMove (exists_move_awaitAck hph hp (rxFits_rxAnswer _ _ _))
  case checkAck => exact exists_step_of_senderMove (exists_move_checkAck hph hp)
  case pace => exact exists_step_of_senderMove (exists_move_pace hph hp)
  case pacingSleep => exact exists_step_of_senderMove (exists_move_pacingSleep hph hp)
  case done | failed => exact exists_step_of_elapse hp

/-- Settles O31: whoever's turn it is, the free answer is an outcome of the transaction asked for. -/
theorem unscriptedSystemAlwaysSteps : Obligations.UnscriptedSystemAlwaysSteps := by
  intro s h hwf hev
  have hp : s.pending = s.freeEvent := by simp only [State.pending, hev]
  unfold State.freeEvent at hp
  cases hturn : Config.freeTurn s.tick <;> simp only [hturn] at hp
  case receiver => exact exists_step_of_freeReceiverEvent h hp
  case sender => exact exists_step_of_freeSenderEvent hwf hp
  case inject bs => exact ⟨_, step_of_inputMove (.inject bs hp)⟩
  case elapse d => exact exists_step_of_elapse hp
  case rst => exact ⟨_, step_of_inputMove (.rst hp)⟩

end Sys2Proof.Machine
end

section
/-! PROOF. The closed loop keeps in step (R171, R174). `LinkInv` says for each phase of the Sender where the
bytes of its frame are: nowhere (`QuietLink`), partly sent (`SendingLink`), or sent and not acknowledged
(`AwaitingLink`). The Receiver's moves keep each of the three, and the Sender's lead from one to the next. -/

namespace Sys2Proof.Machine

variable {s t : State} {fs : List (List Byte)}

/-! ### What the Receiver can do, by what it finds on `h2d` -/

/-- An `Idle` poll of an empty queue finds nothing. -/
theorem ReceiverMove.of_idle_nil (hm : ReceiverMove s t) (hst : s.dfc.st = .idle) (hq : s.h2d = []) :
    t = s.advance ∨ ∃ c, t = (s.advance.popH2d c).raiseHalt .rxFault none := by
  cases hm with
  | idleNoData | idleEmpty => exact .inl rfl
  | idleError c => exact .inr ⟨c, rfl⟩
  | idleFulldata _ _ hb | idleCommack _ _ hb | idleInvalid _ _ _ hb => simp [hq] at hb
  | _ => simp_all

/-- An `Idle` poll where a FullData begins dispatches it or leaves it. -/
theorem ReceiverMove.of_idle_opFullData {q : List Byte} (hm : ReceiverMove s t) (hst : s.dfc.st = .idle)
    (hq : s.h2d = Config.opFullData :: q) :
    t = s.advance ∨ t = dispatchFulldata (s.fetched Config.opFullData) ∨
      ∃ c, t = (s.advance.popH2d c).raiseHalt .rxFault none := by
  cases hm with
  | idleNoData | idleEmpty => exact .inl rfl
  | idleFulldata => exact .inr (.inl rfl)
  | idleError c => exact .inr (.inr ⟨c, rfl⟩)
  | idleCommack _ _ hb => simp [hq] at hb
  | idleInvalid b _ _ hb hfull => exact absurd (by simpa [hq] using hb) hfull
  | _ => simp_all

theorem ReceiverMove.of_recv (hm : ReceiverMove s t) (hst : s.dfc.st = .recv) :
    t = s.advance ∨
      (∃ bs, bs.length ≤ s.room ∧ bs <+: s.h2d ∧ t = storePayload bs (s.advance.popH2d bs.length)) ∨
      ∃ c, t = (s.advance.popH2d c).raiseHalt .rxFault none := by
  cases hm with
  | recvNoData => exact .inl rfl
  | recvData bs _ _ _ hroom hq => exact .inr (.inl ⟨bs, hroom, hq, rfl⟩)
  | recvError c => exact .inr (.inr ⟨c, rfl⟩)
  | _ => simp_all

theorem ReceiverMove.of_applying {p : List Byte} (hm : ReceiverMove s t) (hst : s.dfc.st = .applying)
    (hframe : s.frame = some p) : t = s.appliedFrame p ∨ t = s.advance.raiseHalt .sinkFault none := by
  cases hm with
  | applyOk bs _ hbs =>
    obtain rfl : bs = p := Option.some.inj (hbs.symm.trans hframe)
    exact .inl rfl
  | applyFail => exact .inr rfl
  | _ => simp_all

theorem ReceiverMove.of_acking (hm : ReceiverMove s t) (hst : s.dfc.st = .acking) :
    t = s.advance.pushD2h [] ∨ t = s.acknowledged ∨
      t = (s.advance.pushD2h []).raiseHalt .txFault none := by
  cases hm with
  | ackRefused => exact .inl rfl
  | ackAccepted => exact .inr (.inl rfl)
  | ackError => exact .inr (.inr rfl)
  | _ => simp_all

/-- A halt adds no frame. -/
theorem applied_raiseHalt (s : State) (c : HaltCause) (info : Option Byte) :
    applied (s.raiseHalt c info).trace = applied s.trace := by
  simp [applied_snoc]

theorem applied_dispatchFulldata_fetched (s : State) (b : Byte) :
    applied (dispatchFulldata (s.fetched b)).trace = applied s.trace := by
  simp [applied_snoc]

theorem applied_storePayload (s : State) (bs : List Byte) :
    applied (storePayload bs s).trace = applied s.trace := by
  rw [storePayload_trace]
  split_ifs
  · rfl
  · simp [applied_snoc]

/-! ### The frame in flight -/

theorem InFrame.of_eq (h : InFrame fs s) (hsender : t.sender = s.sender) (hsource : t.source = s.source) :
    InFrame fs t := by
  unfold InFrame
  rw [hsender, hsource]
  exact h

theorem InFrame.length_payload {F : Nat} (h : InFrame fs s) (hfs : ∀ p ∈ fs, p.length = F) :
    s.sender.payload.length = F := hfs _ (List.mem_of_getElem? h.1)

theorem InFrame.lt_length (h : InFrame fs s) : s.sender.j < fs.length :=
  (List.getElem?_eq_some_iff.1 h.1).1

/-- One frame more is the frame in flight. -/
theorem InFrame.take_succ (h : InFrame fs s) :
    fs.take (s.sender.j + 1) = fs.take s.sender.j ++ [s.sender.payload] := by
  rw [List.take_add_one, h.1]
  rfl

/-- The bytes read join what DFC holds of the frame in flight. -/
theorem HoldsPrefix.store {bs : List Byte} (h : HoldsPrefix s) (hbs : bs <+: s.sender.payload.drop s.dfc.n) :
    HoldsPrefix (storePayload bs (s.advance.popH2d bs.length)) := by
  have htake : s.sender.payload.take (s.dfc.n + bs.length) = s.sender.payload.take s.dfc.n ++ bs := by
    rw [List.take_add, ← List.prefix_iff_eq_take.1 hbs]
  unfold HoldsPrefix
  rw [storePayload_dfc_buf, storePayload_dfc_n, storePayload_sender]
  simp only [State.popH2d_dfc, State.popH2d_sender, State.advance_dfc, State.advance_sender, htake]
  exact Memory.readBytes_writeBytes_append h

theorem holdsPrefix_of_n_eq_zero (h : s.dfc.n = 0) : HoldsPrefix s := by
  unfold HoldsPrefix
  rw [h]
  rfl

/-- A complete frame is the frame in flight. -/
theorem HoldsPrefix.frame (h : HoldsPrefix s) (hn : s.dfc.n = s.cfg.frameSize)
    (hlen : s.sender.payload.length = s.cfg.frameSize) : s.frame = some s.sender.payload := by
  unfold HoldsPrefix at h
  rw [State.frame, ← hn, h, hn, ← hlen, List.take_length]

/-! ### The Receiver keeps a quiet link -/

theorem ReceiverMove.quietLink (hm : ReceiverMove s t) (h : QuietLink s) :
    QuietLink t ∧ applied t.trace = applied s.trace := by
  obtain ⟨hd2h, hhalted | ⟨hst, hq⟩⟩ := h
  · exact absurd hhalted hm.not_halted
  obtain rfl | ⟨c, rfl⟩ := hm.of_idle_nil hst hq
  · exact ⟨⟨hd2h, .inr ⟨hst, hq⟩⟩, rfl⟩
  · exact ⟨⟨by simpa using hd2h, .inl (by simp)⟩, applied_raiseHalt _ _ _⟩

/-! ### The Receiver keeps a link with a frame partly sent -/

/-- What is queued behind the bytes that DFC holds continues the frame. -/
theorem prefix_drop_of_prefix_drop_take {bs p : List Byte} {n m : Nat} (h : bs <+: (p.take m).drop n) :
    bs <+: p.drop n := by
  rw [List.drop_take] at h
  exact h.trans (List.take_prefix _ _)

theorem ReceiverMove.sendingLink {m : Nat} (hm : ReceiverMove s t) (h : SendingLink m s)
    (hlt : m < s.cfg.frameSize) : SendingLink m t ∧ applied t.trace = applied s.trace := by
  obtain ⟨hd2h, hhalted | ⟨hst, hq⟩ | ⟨hst, hn, hq, hheld⟩⟩ := h
  · exact absurd hhalted hm.not_halted
  · obtain rfl | rfl | ⟨c, rfl⟩ := hm.of_idle_opFullData hst hq
    · exact ⟨⟨hd2h, .inr (.inl ⟨hst, hq⟩)⟩, rfl⟩
    · refine ⟨⟨hd2h, .inr (.inr ⟨rfl, Nat.zero_le m, ?_, holdsPrefix_of_n_eq_zero rfl⟩)⟩,
        applied_dispatchFulldata_fetched s _⟩
      simp [hq]
    · exact ⟨⟨by simpa using hd2h, .inl (by simp)⟩, applied_raiseHalt _ _ _⟩
  · obtain rfl | ⟨bs, hroom, hbs, rfl⟩ | ⟨c, rfl⟩ := hm.of_recv hst
    · exact ⟨⟨hd2h, .inr (.inr ⟨hst, hn, hq, hheld⟩)⟩, rfl⟩
    · rw [hq] at hbs
      have hlen : s.dfc.n + bs.length ≤ m := by
        have hle := hbs.length_le
        rw [List.length_drop, List.length_take] at hle
        omega
      refine ⟨⟨by simpa using hd2h, .inr (.inr ⟨?st, ?counter, ?queue, ?held⟩)⟩,
        applied_storePayload _ bs⟩
      case st => rw [storePayload_dfc_st, if_neg (by simp; omega)]; exact hst
      case counter => simpa using hlen
      case queue => simp [hq, List.drop_drop]
      case held => exact hheld.store (prefix_drop_of_prefix_drop_take hbs)
    · exact ⟨⟨by simpa using hd2h, .inl (by simp)⟩, applied_raiseHalt _ _ _⟩

/-! ### The Receiver keeps a link with a whole frame sent -/

section
variable (fs)

theorem awaitingLink_of_halted (hst : s.dfc.st = .halted) :
    AwaitingLink fs s ↔
      s.d2h = [] ∧ (applied s.trace = fs.take s.sender.j ∨ applied s.trace = fs.take (s.sender.j + 1)) ∨
        s.d2h = [Config.opCommAck] ∧ applied s.trace = fs.take (s.sender.j + 1) := by
  simp only [AwaitingLink, hst]

theorem awaitingLink_of_idle (hst : s.dfc.st = .idle) :
    AwaitingLink fs s ↔
      s.h2d = Config.opFullData :: s.sender.payload ∧ s.d2h = [] ∧ applied s.trace = fs.take s.sender.j ∨
        s.h2d = [] ∧ s.d2h = [Config.opCommAck] ∧ applied s.trace = fs.take (s.sender.j + 1) := by
  simp only [AwaitingLink, hst]

theorem awaitingLink_of_recv (hst : s.dfc.st = .recv) :
    AwaitingLink fs s ↔
      s.dfc.n < s.cfg.frameSize ∧ s.h2d = s.sender.payload.drop s.dfc.n ∧ s.d2h = [] ∧
        applied s.trace = fs.take s.sender.j ∧ HoldsPrefix s := by
  simp only [AwaitingLink, hst]

theorem awaitingLink_of_applying (hst : s.dfc.st = .applying) :
    AwaitingLink fs s ↔
      s.dfc.n = s.cfg.frameSize ∧ s.h2d = [] ∧ s.d2h = [] ∧ applied s.trace = fs.take s.sender.j ∧
        HoldsPrefix s := by
  simp only [AwaitingLink, hst]

theorem awaitingLink_of_acking (hst : s.dfc.st = .acking) :
    AwaitingLink fs s ↔ s.h2d = [] ∧ s.d2h = [] ∧ applied s.trace = fs.take (s.sender.j + 1) := by
  simp only [AwaitingLink, hst]

end

/-- A DFC that halts writes no more; the frame was applied before or never will be. -/
theorem awaitingLink_raiseHalt {c : HaltCause}
    (h : s.d2h = [] ∧ (applied s.trace = fs.take s.sender.j ∨ applied s.trace = fs.take (s.sender.j + 1)) ∨
      s.d2h = [Config.opCommAck] ∧ applied s.trace = fs.take (s.sender.j + 1)) :
    AwaitingLink fs (s.raiseHalt c none) := by
  rw [awaitingLink_of_halted fs (by simp), applied_raiseHalt]
  simpa using h

/-- The rest of the frame is read, in part or whole. -/
theorem awaitingLink_storePayload {bs : List Byte} (hst : s.dfc.st = .recv) (h : AwaitingLink fs s)
    (hlen : s.sender.payload.length = s.cfg.frameSize) (hroom : bs.length ≤ s.room) (hbs : bs <+: s.h2d) :
    AwaitingLink fs (storePayload bs (s.advance.popH2d bs.length)) := by
  obtain ⟨hn, hq, hd2h, happlied, hheld⟩ := (awaitingLink_of_recv fs hst).1 h
  have hheld' := hheld.store (hq ▸ hbs)
  have hq' : s.h2d.drop bs.length = s.sender.payload.drop (s.dfc.n + bs.length) := by
    rw [hq, List.drop_drop, Nat.add_comm]
  rw [State.room] at hroom
  by_cases hcomplete : bs ≠ [] ∧ s.dfc.n + bs.length = s.cfg.frameSize
  · have hst' : (storePayload bs (s.advance.popH2d bs.length)).dfc.st = .applying := by
      rw [storePayload_dfc_st]
      exact if_pos hcomplete
    refine (awaitingLink_of_applying fs hst').2 ⟨?_, ?_, ?_, ?_, hheld'⟩
    · simpa using hcomplete.2
    · simp [hq', hcomplete.2, ← hlen]
    · simpa using hd2h
    · exact (applied_storePayload _ bs).trans (by simpa using happlied)
  · have hst' : (storePayload bs (s.advance.popH2d bs.length)).dfc.st = .recv := by
      rw [storePayload_dfc_st]
      exact (if_neg hcomplete).trans hst
    have hlt : s.dfc.n + bs.length < s.cfg.frameSize := by
      by_cases hnil : bs = []
      · simpa [hnil] using hn
      · have hne : s.dfc.n + bs.length ≠ s.cfg.frameSize := fun heq => hcomplete ⟨hnil, heq⟩
        omega
    refine (awaitingLink_of_recv fs hst').2 ⟨?_, ?_, ?_, ?_, hheld'⟩
    · simpa using hlt
    · simpa using hq'
    · simpa using hd2h
    · exact (applied_storePayload _ bs).trans (by simpa using happlied)

theorem ReceiverMove.awaitingLink (hm : ReceiverMove s t) (h : AwaitingLink fs s) (hin : InFrame fs s)
    (hlen : s.sender.payload.length = s.cfg.frameSize) (hF : 1 ≤ s.cfg.frameSize) : AwaitingLink fs t := by
  cases hst : s.dfc.st with
  | halted => exact absurd hst hm.not_halted
  | idle =>
    obtain ⟨hq, hd2h, happlied⟩ | ⟨hq, hd2h, happlied⟩ := (awaitingLink_of_idle fs hst).1 h
    · obtain rfl | rfl | ⟨c, rfl⟩ := hm.of_idle_opFullData hst hq
      · exact h
      · refine (awaitingLink_of_recv fs rfl).2 ⟨hF, ?_, hd2h, ?_, holdsPrefix_of_n_eq_zero rfl⟩
        · simp [hq]
        · exact (applied_dispatchFulldata_fetched s _).trans happlied
      · exact awaitingLink_raiseHalt (.inl ⟨hd2h, .inl happlied⟩)
    · obtain rfl | ⟨c, rfl⟩ := hm.of_idle_nil hst hq
      · exact h
      · exact awaitingLink_raiseHalt (.inr ⟨hd2h, happlied⟩)
  | recv =>
    obtain ⟨hn, hq, hd2h, happlied, hheld⟩ := (awaitingLink_of_recv fs hst).1 h
    obtain rfl | ⟨bs, hroom, hbs, rfl⟩ | ⟨c, rfl⟩ := hm.of_recv hst
    · exact h
    · exact awaitingLink_storePayload hst h hlen hroom hbs
    · exact awaitingLink_raiseHalt (.inl ⟨hd2h, .inl happlied⟩)
  | applying =>
    obtain ⟨hn, hq, hd2h, happlied, hheld⟩ := (awaitingLink_of_applying fs hst).1 h
    obtain rfl | rfl := hm.of_applying hst (hheld.frame hn hlen)
    · refine (awaitingLink_of_acking fs rfl).2 ⟨hq, hd2h, ?_⟩
      simp [State.appliedFrame, applied_snoc, happlied, hin.take_succ]
    · exact awaitingLink_raiseHalt (.inl ⟨hd2h, .inl happlied⟩)
  | acking =>
    obtain ⟨hq, hd2h, happlied⟩ := (awaitingLink_of_acking fs hst).1 h
    obtain rfl | rfl | rfl := hm.of_acking hst
    · exact (awaitingLink_of_acking (s := s.advance.pushD2h []) fs hst).2 ⟨hq, by simp [hd2h], happlied⟩
    · refine (awaitingLink_of_idle fs rfl).2 (.inr ⟨hq, ?_, ?_⟩)
      · simp [State.acknowledged, hd2h]
      · simpa [State.acknowledged, applied_snoc] using happlied
    · exact awaitingLink_raiseHalt (.inl ⟨by simp [hd2h], .inr happlied⟩)

/-! ### The Receiver keeps the loop in step -/

theorem ReceiverMove.linkInv (hm : ReceiverMove s t) (h : LinkInv fs s) : LinkInv fs t := by
  obtain ⟨hF, hhost, hfs, h⟩ := h
  have hframe (hin : InFrame fs s) : InFrame fs t := hin.of_eq hm.sender_eq hm.source_eq
  unfold LinkInv
  rw [hm.cfg_eq, hm.sender_eq, hm.source_eq]
  refine ⟨hF, hhost, hfs, ?_⟩
  cases hph : s.sender.phase <;> simp only [hph] at h ⊢
  case ready =>
    obtain ⟨hj, hsource, hquiet, happlied⟩ := h
    obtain ⟨hquiet', happlied'⟩ := hm.quietLink hquiet
    exact ⟨hj, hsource, hquiet', happlied'.trans happlied⟩
  case writeOpcode | pace | pacingSleep =>
    obtain ⟨hin, hquiet, happlied⟩ := h
    obtain ⟨hquiet', happlied'⟩ := hm.quietLink hquiet
    exact ⟨hframe hin, hquiet', happlied'.trans happlied⟩
  case guardDelay =>
    obtain ⟨hin, hsending, happlied⟩ := h
    obtain ⟨hsending', happlied'⟩ := hm.sendingLink hsending hF
    exact ⟨hframe hin, hsending', happlied'.trans happlied⟩
  case writePayload m =>
    obtain ⟨hlt, hin, hsending, happlied⟩ := h
    obtain ⟨hsending', happlied'⟩ := hm.sendingLink hsending hlt
    exact ⟨hlt, hframe hin, hsending', happlied'.trans happlied⟩
  case awaitAck =>
    obtain ⟨hin, hawaiting⟩ := h
    exact ⟨hframe hin, hm.awaitingLink hawaiting hin (hin.length_payload hfs) hF⟩
  case checkAck =>
    obtain ⟨hb, hin, hquiet, happlied⟩ := h
    obtain ⟨hquiet', happlied'⟩ := hm.quietLink hquiet
    exact ⟨hb, hframe hin, hquiet', happlied'.trans happlied⟩
  case done =>
    obtain ⟨hquiet, happlied⟩ := h
    obtain ⟨hquiet', happlied'⟩ := hm.quietLink hquiet
    exact ⟨hquiet', happlied'.trans happlied⟩

/-! ### The Sender keeps the loop in step -/

/-- More of the payload is written behind what was. -/
theorem SendingLink.write {m k : Nat} (h : SendingLink m s) (hm : m ≤ s.sender.payload.length) :
    SendingLink (m + k) (s.advance.pushH2d ((s.sender.payload.drop m).take k)) := by
  obtain ⟨hd2h, hst | ⟨hst, hq⟩ | ⟨hst, hn, hq, hheld⟩⟩ := h
  · exact ⟨hd2h, .inl hst⟩
  · exact ⟨hd2h, .inr (.inl ⟨hst, by simp [hq, List.take_add]⟩)⟩
  · have hn' : s.dfc.n ≤ (s.sender.payload.take m).length := by
      rw [List.length_take]
      omega
    refine ⟨hd2h, .inr (.inr ⟨hst, Nat.le_add_right_of_le hn, ?_, hheld⟩)⟩
    simp [hq, List.take_add, List.drop_append_of_le_length hn']

/-- With the whole payload written the Sender waits for the ack. -/
theorem SendingLink.awaiting (h : SendingLink s.sender.payload.length s)
    (hn : s.dfc.st = .recv → s.dfc.n < s.cfg.frameSize) (happlied : applied s.trace = fs.take s.sender.j) :
    AwaitingLink fs s := by
  obtain ⟨hd2h, hst | ⟨hst, hq⟩ | ⟨hst, -, hq, hheld⟩⟩ := h
  · exact (awaitingLink_of_halted fs hst).2 (.inl ⟨hd2h, .inl happlied⟩)
  · exact (awaitingLink_of_idle fs hst).2 (.inl ⟨by simpa using hq, hd2h, happlied⟩)
  · exact (awaitingLink_of_recv fs hst).2 ⟨hn hst, by simpa using hq, hd2h, happlied, hheld⟩

theorem SendingLink.counter_le {m : Nat} (h : SendingLink m s) (hst : s.dfc.st = .recv) : s.dfc.n ≤ m := by
  obtain ⟨-, hst' | ⟨hst', -⟩ | ⟨-, hn, -⟩⟩ := h
  · simp [hst] at hst'
  · simp [hst] at hst'
  · exact hn

/-- The opcode byte begins the message on a quiet link. -/
theorem QuietLink.writeOpcode (h : QuietLink s) : SendingLink 0 (s.advance.pushH2d [Config.opFullData]) := by
  obtain ⟨hd2h, hst | ⟨hst, hq⟩⟩ := h
  · exact ⟨hd2h, .inl hst⟩
  · exact ⟨hd2h, .inr (.inl ⟨hst, by simp [hq]⟩)⟩

/-- The only byte that can be read is the ack of the frame in flight, and it leaves the link quiet. -/
theorem AwaitingLink.readAck {b : Byte} (h : AwaitingLink fs s) (hb : [b] <+: s.d2h) :
    b = Config.opCommAck ∧ QuietLink (s.advance.popD2h 1) ∧ applied s.trace = fs.take (s.sender.j + 1) := by
  cases hst : s.dfc.st with
  | halted =>
    obtain ⟨hd2h, -⟩ | ⟨hd2h, happlied⟩ := (awaitingLink_of_halted fs hst).1 h
    · simp [hd2h] at hb
    · exact ⟨by simpa [hd2h] using hb, ⟨by simp [hd2h], .inl hst⟩, happlied⟩
  | idle =>
    obtain ⟨-, hd2h, -⟩ | ⟨hq, hd2h, happlied⟩ := (awaitingLink_of_idle fs hst).1 h
    · simp [hd2h] at hb
    · exact ⟨by simpa [hd2h] using hb, ⟨by simp [hd2h], .inr ⟨hst, hq⟩⟩, happlied⟩
  | recv =>
    obtain ⟨-, -, hd2h, -⟩ := (awaitingLink_of_recv fs hst).1 h
    simp [hd2h] at hb
  | applying =>
    obtain ⟨-, -, hd2h, -⟩ := (awaitingLink_of_applying fs hst).1 h
    simp [hd2h] at hb
  | acking =>
    obtain ⟨-, hd2h, -⟩ := (awaitingLink_of_acking fs hst).1 h
    simp [hd2h] at hb

theorem QuietLink.of_eq (h : QuietLink s) (hdfc : t.dfc = s.dfc) (hh2d : t.h2d = s.h2d) (hd2h : t.d2h = s.d2h) :
    QuietLink t := by
  unfold QuietLink
  rw [hdfc, hh2d, hd2h]
  exact h

/-- What the source has left is the frame that is pulled and those after it. -/
theorem getElem?_of_drop_map_eq_cons {j : Nat} {p : List Byte} {rest : List SourceItem}
    (h : (fs.drop j).map SourceItem.frame = .frame p :: rest) :
    fs[j]? = some p ∧ rest = (fs.drop (j + 1)).map .frame := by
  obtain ⟨q, qs, hdrop, hq, rfl⟩ := List.map_eq_cons_iff.1 h
  cases hq
  have hj : fs[j]? = some p := by
    have hhead := congrArg (fun l => l[0]?) hdrop
    simpa using hhead
  have htail : fs.drop (j + 1) = qs := by
    have hrest := congrArg List.tail hdrop
    simpa using hrest
  exact ⟨hj, by rw [htail]⟩

/-- The next frame follows the one that was acknowledged. -/
theorem linkInv_nextFrame (hF : 1 ≤ s.cfg.frameSize) (hhost : s.cfg.hostFrameSize = s.cfg.frameSize)
    (hfs : ∀ p ∈ fs, p.length = s.cfg.frameSize) (hin : InFrame fs s) (hquiet : QuietLink s)
    (happlied : applied s.trace = fs.take (s.sender.j + 1)) : LinkInv fs s.advance.nextFrame :=
  ⟨hF, hhost, hfs, hin.lt_length, hin.2, hquiet, happlied⟩

theorem SenderMove.linkInv (hm : SenderMove s t) (h : LinkInv fs s) : LinkInv fs t := by
  have hkeep := h
  obtain ⟨hF, hhost, hfs, h⟩ := h
  cases hm with
  | exhausted hph hsource =>
    simp only [hph] at h
    obtain ⟨hj, hleft, hquiet, happlied⟩ := h
    have hend : fs.length ≤ s.sender.j := by simpa [hsource] using hleft
    exact ⟨hF, hhost, hfs, hquiet, happlied.trans (List.take_of_length_le hend)⟩
  | pulled p rest hph hsource =>
    simp only [hph] at h
    obtain ⟨hj, hleft, hquiet, happlied⟩ := h
    exact ⟨hF, hhost, hfs, getElem?_of_drop_map_eq_cons (hleft.symm.trans hsource), hquiet, happlied⟩
  | opcodeRefused hph =>
    simp only [hph] at h
    obtain ⟨hin, hquiet, happlied⟩ := h
    unfold LinkInv
    simp only [State.pushH2d_sender, State.advance_sender, hph]
    exact ⟨hF, hhost, hfs, hin, hquiet.of_eq rfl (by simp) rfl, happlied⟩
  | opcodeWritten hph =>
    simp only [hph] at h
    obtain ⟨hin, hquiet, happlied⟩ := h
    exact ⟨hF, hhost, hfs, hin, hquiet.writeOpcode, happlied⟩
  | guarding | sleeping => exact hkeep
  | guarded wake hph =>
    simp only [hph] at h
    exact ⟨hF, hhost, hfs, hF, h⟩
  | payloadPart m k hph _ hk hpart =>
    simp only [hph] at h
    obtain ⟨hlt, hin, hsending, happlied⟩ := h
    have hlen := hin.length_payload hfs
    rw [List.length_drop] at hk
    have hlt' : m + k < s.cfg.frameSize := by omega
    exact ⟨hF, hhost, hfs, hlt', hin, hsending.write (by omega), happlied⟩
  | payloadDone m k hph _ hk hdone =>
    simp only [hph] at h
    obtain ⟨hlt, hin, hsending, happlied⟩ := h
    have hlen := hin.length_payload hfs
    have hwritten := hsending.write (k := k) (by omega)
    rw [hdone] at hwritten
    have hn (hst : s.dfc.st = .recv) : s.dfc.n < s.cfg.frameSize := (hsending.counter_le hst).trans_lt hlt
    exact ⟨hF, hhost, hfs, hin, hwritten.awaiting hn happlied⟩
  | ackTimeout | ackEmpty =>
    obtain heq | heq := retryAck_cases s.advance
    · rw [heq]
      exact hkeep
    · rw [heq]
      exact ⟨hF, hhost, hfs, trivial⟩
  | ackRead b hph _ hb =>
    simp only [hph] at h
    obtain ⟨hin, hawaiting⟩ := h
    obtain ⟨hack, hquiet, happlied⟩ := hawaiting.readAck hb
    exact ⟨hF, hhost, hfs, hack, hin, hquiet, happlied⟩
  | acked hph =>
    simp only [hph] at h
    obtain ⟨-, hquiet⟩ := h
    exact ⟨hF, hhost, hfs, hquiet⟩
  | paceSleep d hph =>
    simp only [hph] at h
    exact ⟨hF, hhost, hfs, h⟩
  | paceNone hph | paceLate _ hph | woken _ hph =>
    simp only [hph] at h
    obtain ⟨hin, hquiet, happlied⟩ := h
    exact linkInv_nextFrame hF hhost hfs hin hquiet happlied
  | sourceFailed | opcodeError | payloadError | ackError | notAnAck => exact ⟨hF, hhost, hfs, trivial⟩

/-! ### One frame in flight (R171) -/

/-- `d2h` holds at most one byte, and `h2d` none beyond the message that DFC has begun. -/
structure OneInFlight (s : State) : Prop where
  d2h : s.d2h.length ≤ 1
  recv : s.dfc.st = .recv → s.h2d.length ≤ s.cfg.frameSize - s.dfc.n
  busy : s.dfc.st = .applying ∨ s.dfc.st = .acking → s.h2d = []

theorem QuietLink.oneInFlight (h : QuietLink s) : OneInFlight s := by
  obtain ⟨hd2h, hst | ⟨hst, -⟩⟩ := h
  all_goals exact ⟨by simp [hd2h], by simp [hst], by simp [hst]⟩

theorem SendingLink.oneInFlight {m : Nat} (h : SendingLink m s) (hm : m ≤ s.cfg.frameSize) : OneInFlight s := by
  obtain ⟨hd2h, hst | ⟨hst, -⟩ | ⟨hst, hn, hq, -⟩⟩ := h
  · exact ⟨by simp [hd2h], by simp [hst], by simp [hst]⟩
  · exact ⟨by simp [hd2h], by simp [hst], by simp [hst]⟩
  · refine ⟨by simp [hd2h], fun _ => ?_, by simp [hst]⟩
    rw [hq, List.length_drop, List.length_take]
    omega

theorem AwaitingLink.oneInFlight (h : AwaitingLink fs s) (hlen : s.sender.payload.length = s.cfg.frameSize) :
    OneInFlight s := by
  cases hst : s.dfc.st with
  | halted =>
    obtain ⟨hd2h, -⟩ | ⟨hd2h, -⟩ := (awaitingLink_of_halted fs hst).1 h
    all_goals exact ⟨by simp [hd2h], by simp [hst], by simp [hst]⟩
  | idle =>
    obtain ⟨-, hd2h, -⟩ | ⟨-, hd2h, -⟩ := (awaitingLink_of_idle fs hst).1 h
    all_goals exact ⟨by simp [hd2h], by simp [hst], by simp [hst]⟩
  | recv =>
    obtain ⟨hn, hq, hd2h, -⟩ := (awaitingLink_of_recv fs hst).1 h
    exact ⟨by simp [hd2h], fun _ => by rw [hq, List.length_drop, hlen], by simp [hst]⟩
  | applying =>
    obtain ⟨-, hq, hd2h, -⟩ := (awaitingLink_of_applying fs hst).1 h
    exact ⟨by simp [hd2h], by simp [hst], fun _ => hq⟩
  | acking =>
    obtain ⟨hq, hd2h, -⟩ := (awaitingLink_of_acking fs hst).1 h
    exact ⟨by simp [hd2h], by simp [hst], fun _ => hq⟩

theorem LinkInv.oneInFlight (h : LinkInv fs s) (hph : ∀ point cause, s.sender.phase ≠ .failed point cause) :
    OneInFlight s := by
  obtain ⟨hF, -, hfs, h⟩ := h
  cases hphase : s.sender.phase <;> simp only [hphase] at h
  case ready =>
    obtain ⟨-, -, hquiet, -⟩ := h
    exact hquiet.oneInFlight
  case writeOpcode | pace | pacingSleep =>
    obtain ⟨-, hquiet, -⟩ := h
    exact hquiet.oneInFlight
  case guardDelay =>
    obtain ⟨-, hsending, -⟩ := h
    exact hsending.oneInFlight (Nat.zero_le _)
  case writePayload =>
    obtain ⟨hm, -, hsending, -⟩ := h
    exact hsending.oneInFlight hm.le
  case awaitAck =>
    obtain ⟨hin, hawaiting⟩ := h
    exact hawaiting.oneInFlight (hin.length_payload hfs)
  case checkAck =>
    obtain ⟨-, -, hquiet, -⟩ := h
    exact hquiet.oneInFlight
  case done =>
    obtain ⟨hquiet, -⟩ := h
    exact hquiet.oneInFlight
  case failed point cause => exact absurd hphase (hph point cause)

/-! ### The statements -/

/-- Settles O47. Before the opcode is written the link is quiet. -/
theorem atMostOneFrameInFlight : Obligations.AtMostOneFrameInFlight := by
  intro fs s h hph
  obtain ⟨hd2h, hrecv, hbusy⟩ := h.oneInFlight hph
  refine ⟨hd2h, hrecv, hbusy, fun hwrite => ?_⟩
  obtain ⟨-, -, -, h⟩ := h
  simp only [hwrite] at h
  obtain ⟨-, ⟨hempty, hst | ⟨hst, -⟩⟩, happlied⟩ := h
  all_goals exact ⟨hempty, by simp [hst], by simp [hst], by simp [hst], happlied⟩

/-- Settles O45. -/
theorem linkStartsInStep : Obligations.LinkStartsInStep := by
  intro s fs hF hhost hfs hdfc htrace hh2d hd2h hsender hsource
  have hquiet : QuietLink s := ⟨hd2h, .inr ⟨by rw [hdfc]; rfl, hh2d⟩⟩
  refine ⟨hF, hhost, hfs, ?_⟩
  simp only [hsender, Sender.start]
  exact ⟨Nat.zero_le _, hsource, hquiet, by rw [htrace]; rfl⟩

/-- Settles O46: the Receiver and the Sender keep the loop in step, and time changes nothing of it. -/
theorem everyStepKeepsTheLinkInStep : Obligations.EveryStepKeepsTheLinkInStep := by
  intro fs s t h hstray hstep
  obtain hr | hs | hi := step_cases hstep
  · exact hr.linkInv h
  · exact hs.linkInv h
  · cases hi with
    | inject bs hp => simp [hp, Event.stray] at hstray
    | elapse => exact h
    | rst hp => simp [hp, Event.stray] at hstray

end Sys2Proof.Machine
end

section
/-! PROOF. What a Receiver step does, row by row of table R130: the fetch and the dispatch in `Idle`, the steps
of FULLDATA, the halt and reset. Each row is a move of `ReceiverMove`, so that what is left is to write its
state out. -/

namespace Sys2Proof.Machine

variable {s t : State}

/-! ### The fetch and the dispatch (R122) -/

theorem fetched_of_h2d_cons {b : Byte} {rest : List Byte} (h : s.h2d = b :: rest) :
    s.fetched b = { s with
      h2d := rest, trace := s.trace ++ [.fetch b], events := s.events.tail, tick := s.tick + 1 } := by
  simp [State.fetched, State.advance, State.popH2d, State.emit, h]

theorem receiverStep_of_idle {b : Byte} (hst : s.dfc.st = .idle) (hp : s.pending = .rx (.data [b]))
    (hq : [b] <+: s.h2d) : receiverStep s = dispatchOpcode b (s.fetched b) := by
  have hread := rxRead_eq_some.2 ⟨hp, rxFits_data.2 ⟨Nat.le_refl 1, hq⟩, rfl⟩
  simp only [receiverStep, hst, fetch, hread]
  rfl

theorem step_of_ofReceiver (h : s.pending.ofReceiver = true) : step s = receiverStep s := by
  unfold step
  cases hp : s.pending with
  | rx | tx | sink => rfl
  | _ => simp [hp, Event.ofReceiver] at h

/-- The step that reads an instruction's opcode byte in `Idle` is that instruction. -/
theorem step_of_fetched_opcode {i : Instr} (hst : s.dfc.st = .idle)
    (hp : s.pending = .rx (.data [encodeOpcode i])) (hq : [encodeOpcode i] <+: s.h2d) :
    step s = exec i (s.fetched (encodeOpcode i)) := by
  rw [step_of_ofReceiver (by rw [hp]; rfl), receiverStep_of_idle hst hp hq]
  simp only [dispatchOpcode, decodeOpcode_encodeOpcode]

theorem singleton_prefix_of_eq_cons {q rest : List Byte} {b : Byte} (h : q = b :: rest) : [b] <+: q :=
  ⟨rest, h.symm⟩

/-- Settles O9. -/
theorem stepRunsTheFetchedInstruction : Obligations.StepRunsTheFetchedInstruction := by
  intro s b rest i hst hp hq hdecode
  obtain rfl := (decodeOpcode_eq_some_iff _ _ _).1 hdecode
  rw [step_of_fetched_opcode hst hp (singleton_prefix_of_eq_cons hq), fetched_of_h2d_cons hq]

/-- Settles O10: in these control states FULLDATA is the instruction in progress. -/
theorem stepContinuesTheInstructionInProgress : Obligations.StepContinuesTheInstructionInProgress := by
  intro s hst hp
  rw [step_of_ofReceiver hp]
  apply receiverStep_of_inProgress
  rcases hst with hst | hst | hst <;> rw [hst] <;> rfl

/-! ### A placed word -/

theorem tableByte_encodeOpcode (i : Instr) : tableByte ((encodeOpcode i).toNat % 2 ^ 8) 0 = encodeOpcode i := by
  cases i <;> rfl

/-- The message of an instruction's table word begins with its opcode byte. -/
theorem tableMessage_encodeOpcode (F : Nat) (i : Instr) :
    tableMessage F 8 (encodeOpcode i).toNat =
      encodeOpcode i :: (tableMessage F 8 (encodeOpcode i).toNat).drop 1 := by
  simp only [tableMessage, tableByte_encodeOpcode, decodeOpcode_encodeOpcode]
  rfl

/-- Settles O11: the placed byte is at the head of `h2d`, and its delivery is the next event. -/
theorem placedWordRunsNext : Obligations.PlacedWordRunsNext := by
  intro s i
  have hq : (s.withFetchWord 8 (encodeOpcode i).toNat).h2d = encodeOpcode i ::
      ((tableMessage s.cfg.frameSize 8 (encodeOpcode i).toNat).drop 1 ++ s.h2d) := by
    rw [← List.cons_append, ← tableMessage_encodeOpcode]
    rfl
  have hp : (s.withFetchWord 8 (encodeOpcode i).toNat).pending = .rx (.data [encodeOpcode i]) :=
    (State.pending_of_events rfl).trans (by rw [tableByte_encodeOpcode])
  rw [step_of_fetched_opcode rfl hp (singleton_prefix_of_eq_cons hq), fetched_of_h2d_cons hq]
  rfl

/-! ### FULLDATA and COMMACK in `Idle` (R123 to R125) -/

theorem exec_fulldata_of_idle (hst : s.dfc.st = .idle) : exec .fulldata s = .next (dispatchFulldata s) := by
  simp only [exec, execFulldata, hst]

/-- Settles O12. -/
theorem fulldataDispatches : Obligations.FulldataDispatches := by
  refine ⟨fun s hst => exec_fulldata_of_idle hst, fun s rest hst hp hq => ?_⟩
  have hfetched := step_of_receiverMove (.idleFulldata hst hp (singleton_prefix_of_eq_cons hq))
  rw [hfetched, fetched_of_h2d_cons (b := Config.opFullData) hq]
  rfl

/-- Settles O13. -/
theorem commackIsDiscarded : Obligations.CommackIsDiscarded := by
  refine ⟨fun s => rfl, fun s rest hst hp hq => ?_⟩
  have hfetched := step_of_receiverMove (.idleCommack hst hp (singleton_prefix_of_eq_cons hq))
  rw [hfetched, fetched_of_h2d_cons (b := Config.opCommAck) hq]
  rfl

/-- Settles O14: the byte is fetched as any other, and the policy says what follows. -/
theorem invalidOpcodeIsRecorded : Obligations.InvalidOpcodeIsRecorded := by
  intro s b rest hst hp hq hfull hcomm
  have hstep : step s = .next (invalidOpcode b (s.fetched b)) :=
    step_of_receiverMove (.idleInvalid b hst hp (singleton_prefix_of_eq_cons hq) hfull hcomm)
  constructor
  · intro hdrop
    rw [hstep, invalidOpcode_of_drop (s.fetched b) b hdrop, fetched_of_h2d_cons hq]
    simp [State.recordInvalid, State.emit]
  · intro hhalt
    rw [hstep, invalidOpcode_of_halt (s.fetched b) b hhalt, fetched_of_h2d_cons hq]
    simp [State.raiseHalt, State.setHaltCause, State.setSt, State.recordInvalid, State.emit]

/-! ### FULLDATA in progress (R126 to R128) -/

/-- What FULLDATA does in each control state. -/
theorem exec_fulldata_cases (h : exec .fulldata s = .next t) :
    s.dfc.st = .idle ∧ t = dispatchFulldata s ∨ s.dfc.st = .halted ∧ t = s ∨
      s.dfc.st ≠ .idle ∧ ReceiverMove s t := by
  cases hst : s.dfc.st with
  | idle =>
    rw [exec_fulldata_of_idle hst] at h
    exact .inl ⟨rfl, (Host.Outcome.next.inj h).symm⟩
  | halted =>
    simp only [exec, execFulldata, hst] at h
    exact .inr (.inl ⟨rfl, (Host.Outcome.next.inj h).symm⟩)
  | recv | applying | acking =>
    have hprog : inProgress s.dfc.st = some .fulldata := by rw [hst]; rfl
    rw [← receiverStep_of_inProgress hprog] at h
    exact .inr (.inr ⟨by simp, receiverStep_next_iff.1 h⟩)

/-- Settles O15: the read is the row `recvData` of table R130. -/
theorem fulldataStoresPayload : Obligations.FulldataStoresPayload := by
  intro s bs hst hn hp hne hroom hq
  have hprog : inProgress s.dfc.st = some .fulldata := by rw [hst]; rfl
  refine ⟨_, exec_fulldata_of_receiverMove hprog (.recvData bs hst hn hp hroom hq), ?counter, ?st, ?inside,
    ?outside, ?queue, ?trace, ?cause, ?flag, ?byte⟩
  case counter => simp
  case st => simp [storePayload_dfc_st, hst, hne]
  case inside =>
    intro i hi
    simp [Memory.read_writeBytes, hi]
  case outside =>
    intro a ha
    rw [storePayload_dfc_buf, Memory.read_writeBytes, if_neg]
    · rfl
    · simp only [State.popH2d_dfc, State.advance_dfc]
      omega
  case queue => simp
  case trace => simp [storePayload_trace, hne]
  case cause | flag | byte => simp

/-- Settles O17: the two answers to the write are rows of table R130. -/
theorem fulldataAcknowledges : Obligations.FulldataAcknowledges := by
  intro s hst
  have hprog : inProgress s.dfc.st = some .fulldata := by rw [hst]; rfl
  refine ⟨?request, ?accepted, ?refused⟩
  case request => simp only [State.request, hst]; rfl
  case accepted => exact fun hp => exec_fulldata_of_receiverMove hprog (.ackAccepted hst hp)
  case refused =>
    intro hp
    rw [exec_fulldata_of_receiverMove hprog (.ackRefused hst hp)]
    simp [State.pushD2h, State.advance]

/-- Settles O19: a fatal answer is a row of table R130, and the halt entry writes nothing else. -/
theorem hardErrorHaltsAtOnce : Obligations.HardErrorHaltsAtOnce := by
  constructor
  · rintro s c (hst | ⟨hst, hn⟩) hp
    · exact step_of_receiverMove (.idleError c hst hp)
    · exact step_of_receiverMove (.recvError c hst hn hp)
  · intro s hst hp
    rw [step_of_receiverMove (.ackError hst hp)]
    simp [State.raiseHalt, State.setHaltCause, State.setSt, State.emit, State.pushD2h, State.advance]

/-! ### Payload bytes (R89) -/

/-- A read in `Recv` that answers data stores it. -/
theorem ReceiverMove.eq_storePayload {bs : List Byte} (hm : ReceiverMove s t) (hst : s.dfc.st = .recv)
    (hp : s.pending = .rx (.data bs)) : t = storePayload bs (s.advance.popH2d bs.length) := by
  cases hm with
  | recvData cs _ _ hp' =>
    rw [hp] at hp'
    cases hp'
    rfl
  | _ => simp_all

/-- FULLDATA in `Recv` reads from the Transport, whatever DFC holds. -/
theorem exec_fulldata_of_recv_data {bs : List Byte} (hst : s.dfc.st = .recv)
    (hp : s.pending = .rx (.data bs)) (h : exec .fulldata s = .next t) :
    t = storePayload bs (s.advance.popH2d bs.length) := by
  obtain ⟨hst', -⟩ | ⟨hst', -⟩ | ⟨-, hm⟩ := exec_fulldata_cases h
  · simp [hst] at hst'
  · simp [hst] at hst'
  · exact hm.eq_storePayload hst hp

/-- The record of DFC after a store: of the bytes, only their number shows outside the buffer. -/
theorem storePayload_dfc (s : State) (bs : List Byte) :
    (storePayload bs s).dfc = { s.dfc with
      st := if bs.length ≠ 0 ∧ s.dfc.n + bs.length = s.cfg.frameSize then .applying else s.dfc.st
      n := s.dfc.n + bs.length
      buf := Memory.writeBytes s.dfc.buf s.dfc.n bs } := by
  by_cases hbs : bs = []
  · subst hbs
    simp
  · rw [storePayload_of_ne_nil s hbs]
    have hlen : bs.length ≠ 0 := by simpa using hbs
    simp only [hlen, ne_eq, not_false_eq_true, true_and]
    split_ifs <;> rfl

/-- Settles O20: in the record after a store the bytes stand in `buf` alone. -/
theorem payloadBytesAreOpaque : Obligations.PayloadBytesAreOpaque := by
  intro s u s' u' bs cs hst hdfc hcfg hps hpu hlen hs hu
  obtain ⟨buf, hu_dfc⟩ : ∃ buf, u.dfc = { s.dfc with buf := buf } := ⟨u.dfc.buf, by rw [← hdfc]⟩
  have hst' : u.dfc.st = .recv := by rw [hu_dfc, hst]
  rw [exec_fulldata_of_recv_data hst hps hs, exec_fulldata_of_recv_data hst' hpu hu]
  simp [storePayload_dfc, hu_dfc, hcfg, hlen]

/-! ### The frame of FULLDATA -/

/-- In progress, FULLDATA reads `h2d` only in `Recv` and writes `d2h` only in `Acking`, and what it stores is
what it reads. -/
theorem ReceiverMove.frame_of_inProgress (hm : ReceiverMove s t) (hst : s.dfc.st ≠ .idle) :
    t.dfc.invFlag = s.dfc.invFlag ∧ t.dfc.faultByte = s.dfc.faultByte ∧
    (s.dfc.st ≠ .recv → t.dfc.n = s.dfc.n) ∧
    (t.dfc.st ≠ .halted → t.dfc.haltCause = s.dfc.haltCause) ∧
    (s.dfc.st ≠ .recv → t.h2d = s.h2d) ∧ (s.dfc.st ≠ .acking → t.d2h = s.d2h) ∧
    (t.dfc.buf = s.dfc.buf ∨ ∃ bs, s.dfc.st = .recv ∧ s.pending = .rx (.data bs) ∧
      t.dfc.buf = Memory.writeBytes s.dfc.buf s.dfc.n bs) := by
  cases hm with
  | idleNoData hidle | idleEmpty hidle | idleFulldata hidle | idleCommack hidle | idleInvalid _ hidle
  | idleError _ hidle => exact absurd hidle hst
  | recvData bs hrecv _ hp =>
    exact ⟨by simp, by simp, absurd hrecv, by simp, absurd hrecv, by simp, .inr ⟨bs, hrecv, hp, by simp⟩⟩
  | recvNoData hrecv | recvError _ hrecv | applyOk _ hrecv | applyFail _ hrecv | ackRefused hrecv
  | ackAccepted hrecv | ackError hrecv => simp [hrecv]

/-- Settles O21, from the frame of the dispatch, of a halted DFC, and of the steps in progress. -/
theorem fulldataFrame : Obligations.FulldataFrame := by
  intro s t h
  obtain ⟨hst, rfl⟩ | ⟨hst, rfl⟩ | ⟨hst, hm⟩ := exec_fulldata_cases h
  · simp [hst]
  · simp
  obtain ⟨hflag, hbyte, hn, hcause, hh2d, hd2h, hbuf⟩ := hm.frame_of_inProgress hst
  refine ⟨hm.cfg_eq, hm.sender_eq, hm.source_eq, hm.now_eq, hflag, hbyte, fun _ => hn, hcause, hh2d, hd2h,
    fun a ha => ?_⟩
  obtain hbuf | ⟨bs, hrecv, hp, hbuf⟩ := hbuf
  · rw [hbuf]
  · have hout := ha bs hrecv hp
    rw [hbuf, Memory.read_writeBytes, if_neg (by omega)]

/-! ### The halt and reset (R196, R230) -/

/-- Settles O22. -/
theorem haltEntry : Obligations.HaltEntry := by
  intro s
  refine ⟨?_, fun b => rfl⟩
  simp only [List.forall_mem_cons]
  exact ⟨rfl, rfl, rfl, by simp⟩

/-- Settles O25. -/
theorem resetEvent : Obligations.ResetEvent :=
  fun _ hp => ⟨_, step_of_inputMove (.rst hp), rfl, rfl, Memory.read_nil, rfl, rfl, rfl, rfl, rfl, rfl, rfl,
    rfl, rfl⟩

/-- Settles O26. -/
theorem resetState : Obligations.ResetState := ⟨rfl, rfl, rfl, rfl, rfl, rfl, rfl⟩

theorem St.code_lt (v : St) : v.code < 2 ^ 3 := by cases v <;> decide

theorem HaltCause.fault_code_lt (c : HaltCause) : c.fault.code < 2 ^ 3 := by cases c <;> decide

/-- Settles O27. -/
theorem statusShowsTheFields : Obligations.StatusShowsTheFields :=
  fun d => ⟨rfl, d.st.code_lt, d.haltCause.fault_code_lt, rfl, rfl⟩

end Sys2Proof.Machine
end

section
/-! PROOF. What a Sender step does (R162 to R168), row by row: each is a move of `SenderMove`, so that what is
left is to write its state out. And the transient answers to DFC (R193), which change nothing. -/

namespace Sys2Proof.Machine

variable {s t : State}

/-! ### Writes and phases that change nothing -/

@[simp] theorem State.pushH2d_nil (s : State) : s.pushH2d [] = s := by
  simp [State.pushH2d]

@[simp] theorem State.pushD2h_nil (s : State) : s.pushD2h [] = s := by
  simp [State.pushD2h]

theorem State.setPhase_self {p : Phase} (h : s.sender.phase = p) : s.setPhase p = s := by
  subst h
  rfl

/-! ### The Sender's steps -/

/-- Settles O39. -/
theorem frameSourceIsPulledLazily : Obligations.FrameSourceIsPulledLazily := by
  intro s hph hp
  refine ⟨?pulled, ?failed, ?exhausted⟩
  case pulled => exact fun p rest hsource hlen => step_of_senderMove (.pulled p rest hph hsource hlen hp)
  case failed => exact fun rest hsource => step_of_senderMove (.sourceFailed rest hph hsource hp)
  case exhausted => exact fun hsource => step_of_senderMove (.exhausted hph hsource hp)

/-- Settles O40. -/
theorem senderWritesOpcodeThenWaits : Obligations.SenderWritesOpcodeThenWaits := by
  intro s
  refine ⟨fun hph => ⟨?written, ?refused, ?error⟩, ?guard⟩
  case written => exact fun hp => step_of_senderMove (.opcodeWritten hph hp)
  case refused =>
    intro hp
    rw [step_of_senderMove (.opcodeRefused hph hp), State.pushH2d_nil]
    rfl
  case error =>
    intro hp
    rw [step_of_senderMove (.opcodeError hph hp), State.pushH2d_nil]
    rfl
  case guard =>
    intro wake hph hp
    split_ifs with hw
    · exact step_of_senderMove (.guarded wake hph hw hp)
    · rw [step_of_senderMove (.guarding wake hph (Nat.lt_of_not_le hw) hp),
        ← State.setPhase_self (s := s.advance) hph]
      rfl

/-- Settles O41. -/
theorem senderWritesThePayload : Obligations.SenderWritesThePayload := by
  intro s m hph hm
  constructor
  · intro k hk hp
    have hfits : k ≤ (s.sender.payload.drop m).length := by rwa [List.length_drop]
    split_ifs with hdone
    · exact step_of_senderMove (.payloadDone m k hph hp hfits hdone)
    · exact step_of_senderMove (.payloadPart m k hph hp hfits hdone)
  · intro hp
    rw [step_of_senderMove (.payloadError m hph hp), State.pushH2d_nil]
    rfl

/-- Nothing to read: the deadline alone decides whether step 4 goes on. -/
theorem step_of_no_ack (hph : s.sender.phase = .awaitAck)
    (hp : s.pending = .hostRx .noData ∨ s.pending = .hostRx (.data [])) :
    step s = .next (retryAck s.advance) :=
  hp.elim (fun hp => step_of_senderMove (.ackTimeout hph hp)) fun hp => step_of_senderMove (.ackEmpty hph hp)

/-- Settles O42. -/
theorem senderAwaitsTheAck : Obligations.SenderAwaitsTheAck := by
  refine ⟨fun s hph => ⟨fun hp => ⟨?noDeadline, fun d hd => ?deadline⟩, ?read, ?error⟩, ?judge⟩
  case noDeadline =>
    intro hdl
    rw [step_of_no_ack hph hp, retryAck_of_none (s := s.advance) hdl]
    rfl
  case deadline =>
    rw [step_of_no_ack hph hp, retryAck_of_some (s := s.advance) hd]
    exact ⟨fun hlt => by rw [if_neg (by simpa using hlt)]; rfl, fun hle => by rw [if_pos (by simpa using hle)]; rfl⟩
  case read =>
    intro b rest hp hq
    rw [step_of_senderMove (.ackRead b hph hp (singleton_prefix_of_eq_cons hq))]
    simp [State.setPhase, State.popD2h, State.advance, hq]
  case error => exact fun c hp => step_of_senderMove (.ackError c hph hp)
  case judge =>
    intro s b hph hp
    split_ifs with hb
    · subst hb
      exact step_of_senderMove (.acked hph hp)
    · exact step_of_senderMove (.notAnAck b hph hb hp)

/-- Settles O43. -/
theorem senderPacesFrames : Obligations.SenderPacesFrames := by
  refine ⟨fun s hph hp => ⟨?noInterval, fun d hd => ⟨?early, ?late⟩⟩,
    fun s wake hph hp => ⟨?woken, ?asleep⟩⟩
  case noInterval => exact fun hnone => step_of_senderMove (.paceNone hph hnone hp)
  case early => exact fun hlt => step_of_senderMove (.paceSleep d hph hd hlt hp)
  case late => exact fun hle => step_of_senderMove (.paceLate d hph hd hle hp)
  case woken => exact fun hw => step_of_senderMove (.woken wake hph hw hp)
  case asleep => exact fun hw => step_of_senderMove (.sleeping wake hph hw hp)

/-! ### Transient answers (R193) -/

/-- A transient answer leaves everything but the script and the counter. -/
theorem step_of_transient {e : Event} (hn : s.dfc.st = .recv → s.dfc.n < s.cfg.frameSize)
    (he : e.transientIn s.dfc.st = true) (hp : s.pending = e) : step s = .next s.advance := by
  unfold Event.transientIn at he
  split at he
  next hst => exact step_of_receiverMove (.idleNoData hst hp)
  next hst => exact step_of_receiverMove (.recvNoData hst (hn hst) hp)
  next hst => exact step_of_receiverMove (.idleEmpty hst hp)
  next hst =>
    have hmove := ReceiverMove.recvData [] hst (hn hst) hp (Nat.zero_le _) List.nil_prefix
    exact step_of_receiverMove hmove
  next hst =>
    rw [step_of_receiverMove (.ackRefused hst hp), State.pushD2h_nil]
  next => cases he

theorem runFor_of_transient {es more : List Event} (hn : s.dfc.st = .recv → s.dfc.n < s.cfg.frameSize)
    (hes : ∀ e ∈ es, e.transientIn s.dfc.st = true) (hev : s.events = es ++ more) :
    runFor es.length s = .next { s with events := more, tick := s.tick + es.length } := by
  induction es generalizing s with
  | nil =>
    obtain rfl : s.events = more := hev
    rfl
  | cons e es ih =>
    obtain ⟨he, hes⟩ := List.forall_mem_cons.1 hes
    rw [List.length_cons, runFor_succ_of_step _ (step_of_transient hn he (State.pending_of_events hev)),
      ih (s := s.advance) hn hes (by simp [hev])]
    simp [State.advance, Nat.add_assoc, Nat.add_comm 1]

/-- Settles O18, by induction on the answers. -/
theorem transientAnswersChangeNothing : Obligations.TransientAnswersChangeNothing :=
  fun _ _ _ hn hes hev => runFor_of_transient hn hes hev

end Sys2Proof.Machine
end

section
/-! PROOF. The complete effect of one FullData message (R131), with transient answers anywhere in it. The reads
before the last one leave the frame incomplete (`Reading`): a read of no bytes leaves everything, and any other
extends the payload by its bytes. The last read completes the frame, which is applied and, after the refused
writes, acknowledged. -/

namespace Sys2Proof.Machine

variable {s t u : State}

/-! ### What a message leaves alone -/

/-- `t` has the parameters, the flags, the cause and the unread acks of `s`. -/
structure SameRecord (s t : State) : Prop where
  cfg : t.cfg = s.cfg
  invFlag : t.dfc.invFlag = s.dfc.invFlag
  faultByte : t.dfc.faultByte = s.dfc.faultByte
  haltCause : t.dfc.haltCause = s.dfc.haltCause
  d2h : t.d2h = s.d2h

theorem SameRecord.refl (s : State) : SameRecord s s := ⟨rfl, rfl, rfl, rfl, rfl⟩

theorem SameRecord.trans (h : SameRecord s t) (h' : SameRecord t u) : SameRecord s u :=
  ⟨h'.cfg.trans h.cfg, h'.invFlag.trans h.invFlag, h'.faultByte.trans h.faultByte,
    h'.haltCause.trans h.haltCause, h'.d2h.trans h.d2h⟩

theorem sameRecord_storePayload (s : State) (bs : List Byte) (k : Nat) :
    SameRecord s (storePayload bs (s.advance.popH2d k)) := by
  constructor <;> simp

/-! ### The `Stored` events of reads -/

theorem storedEvents_append (off : Nat) (cs ds : List (List Byte)) :
    storedEvents off (cs ++ ds) = storedEvents off cs ++ storedEvents (off + cs.flatten.length) ds := by
  induction cs generalizing off with
  | nil => rfl
  | cons c cs ih =>
    by_cases hc : c = []
    · subst hc
      exact ih off
    · rw [List.cons_append, storedEvents_cons_of_ne_nil hc, storedEvents_cons_of_ne_nil hc, ih]
      simp [Nat.add_assoc]

theorem storedEvents_singleton_of_ne_nil {c : List Byte} (h : c ≠ []) (off : Nat) :
    storedEvents off [c] = [.stored off c] := storedEvents_cons_of_ne_nil h off []

theorem storedEvents_cons (off : Nat) (c : List Byte) (cs : List (List Byte)) :
    storedEvents off (c :: cs) = storedEvents off [c] ++ storedEvents (off + c.length) cs := by
  simpa using storedEvents_append off [c] cs

/-! ### The reads before the last -/

/-- The bytes `got` are stored, the reads `left` will not complete the frame, and after them come `rest` on `h2d`
and the events `es`. -/
structure Reading (got : List Byte) (left : List (Option (List Byte))) (rest : List Byte) (es : List Event)
    (s : State) : Prop where
  holds : HoldsPayload got s
  incomplete : got.length + (left.flatMap fun c => c.getD []).length < s.cfg.frameSize
  h2d : s.h2d = (left.flatMap fun c => c.getD []) ++ rest
  events : s.events = left.map readEvent ++ es

variable {got rest : List Byte} {left : List (Option (List Byte))} {es : List Event}

theorem HoldsPayload.counter_lt (h : HoldsPayload got s) (hlt : got.length < s.cfg.frameSize) :
    s.dfc.n < s.cfg.frameSize := h.counter ▸ hlt

/-- A read of no bytes is transient (R126, D6). -/
theorem HoldsPayload.step_empty {c : Option (List Byte)} (h : HoldsPayload got s)
    (hlt : got.length < s.cfg.frameSize) (hc : c.getD [] = []) (hp : s.pending = readEvent c) :
    step s = .next s.advance := by
  refine step_of_transient (fun _ => h.counter_lt hlt) ?_ hp
  rw [h.recv hlt]
  cases c with
  | none => rfl
  | some bs =>
    obtain rfl : bs = [] := hc
    rfl

theorem Reading.step_cons {c : Option (List Byte)} (h : Reading got (c :: left) rest es s) :
    ∃ t : State, step s = .next t ∧ Reading (got ++ c.getD []) left rest es t ∧
      t.trace = s.trace ++ storedEvents got.length [c.getD []] ∧ SameRecord s t := by
  obtain ⟨hholds, hincomplete, hh2d, hev⟩ := h
  simp only [List.flatMap_cons, List.length_append, List.append_assoc] at hincomplete hh2d
  have hp : s.pending = readEvent c := State.pending_of_events hev
  by_cases hc : c.getD [] = []
  · refine ⟨s.advance, hholds.step_empty (by omega) hc hp, ?_, ?_, ⟨rfl, rfl, rfl, rfl, rfl⟩⟩
    · rw [hc] at hincomplete hh2d
      rw [hc, List.append_nil]
      exact ⟨⟨hholds.st, hholds.counter, hholds.buffer⟩, by simpa using hincomplete, hh2d, by simp [hev]⟩
    · simp [hc, storedEvents]
  · obtain ⟨bs, rfl⟩ : ∃ bs, c = some bs := by
      cases c with
      | none => exact absurd rfl hc
      | some bs => exact ⟨bs, rfl⟩
    simp only [Option.getD_some] at hc hincomplete hh2d ⊢
    obtain ⟨hstep, hholds'⟩ := hholds.step_data hc (by omega) hp hh2d
    refine ⟨_, hstep, ⟨hholds', ?_, ?_, ?_⟩, ?_, sameRecord_storePayload s bs _⟩
    · simpa [Nat.add_assoc] using hincomplete
    · simp [hh2d]
    · simp [hev]
    · simp [storePayload_trace, hc, storedEvents_singleton_of_ne_nil, hholds.counter]

theorem Reading.run (h : Reading got left rest es s) :
    ∃ t : State, runFor left.length s = .next t ∧
      Reading (got ++ left.flatMap fun c => c.getD []) [] rest es t ∧
      t.trace = s.trace ++ storedEvents got.length (left.map fun c => c.getD []) ∧ SameRecord s t := by
  induction left generalizing s got with
  | nil => exact ⟨s, rfl, by simpa using h, by simp [storedEvents], .refl s⟩
  | cons c left ih =>
    obtain ⟨u, hstep, hu, hutrace, hurecord⟩ := h.step_cons
    obtain ⟨t, hrun, ht, httrace, htrecord⟩ := ih hu
    refine ⟨t, (runFor_succ_of_step _ hstep).trans hrun, by simpa using ht, ?_, hurecord.trans htrecord⟩
    rw [httrace, hutrace, List.append_assoc, List.map_cons,
      storedEvents_cons got.length (c.getD []) (left.map _), List.length_append]

/-! ### The whole message -/

/-- The dispatch of FULLDATA, where reads are to come (R123). -/
theorem reading_of_dispatch (hst : s.dfc.st = .idle)
    (hlt : (left.flatMap fun c => c.getD []).length < s.cfg.frameSize)
    (hq : s.h2d = Config.opFullData :: (left.flatMap fun c => c.getD []) ++ rest)
    (hev : s.events = .rx (.data [Config.opFullData]) :: left.map readEvent ++ es) :
    ∃ t : State, step s = .next t ∧ Reading [] left rest es t ∧
      t.trace = s.trace ++ [.fetch Config.opFullData] ∧ SameRecord s t := by
  have hmove := ReceiverMove.idleFulldata hst (State.pending_of_events hev) (singleton_prefix_of_eq_cons hq)
  have hholds : HoldsPayload [] (dispatchFulldata (s.fetched Config.opFullData)) :=
    holdsPayload_dispatchFulldata (s := s.fetched Config.opFullData) (Nat.one_le_of_lt hlt)
  exact ⟨_, step_of_receiverMove hmove, ⟨hholds, by simpa using hlt, by simp [hq], by simp [hev]⟩, rfl,
    ⟨rfl, rfl, rfl, rfl, rfl⟩⟩

/-- The last read completes the frame. -/
theorem Reading.step_last {last : List Byte} (h : Reading got [] (last ++ rest) (.rx (.data last) :: es) s)
    (hlast : last ≠ []) (hsize : got.length + last.length = s.cfg.frameSize) :
    ∃ t : State, step s = .next t ∧ HoldsPayload (got ++ last) t ∧ t.h2d = rest ∧ t.events = es ∧
      t.trace = s.trace ++ storedEvents got.length [last] ∧ SameRecord s t := by
  obtain ⟨hholds, -, hh2d, hev⟩ := h
  have hq : s.h2d = last ++ rest := hh2d
  obtain ⟨hstep, hholds'⟩ := hholds.step_data hlast hsize.le (State.pending_of_events hev) hq
  refine ⟨_, hstep, hholds', by simp [hq], by simp [hev], ?_, sameRecord_storePayload s last _⟩
  simp [storePayload_trace, hlast, storedEvents_singleton_of_ne_nil, hholds.counter]

/-- A complete frame is applied, and acknowledged after `k` refused writes. -/
theorem HoldsPayload.run_complete {p : List Byte} {k : Nat} (h : HoldsPayload p s)
    (hfull : p.length = s.cfg.frameSize)
    (hev : s.events = .sink .ok :: List.replicate k (.tx (.accepted 0)) ++ .tx (.accepted 1) :: es) :
    ∃ t : State, runFor (k + 2) s = .next t ∧ t.cfg = s.cfg ∧ t.dfc = { s.dfc with st := .idle } ∧
      t.h2d = s.h2d ∧ t.d2h = s.d2h ++ [Config.opCommAck] ∧ t.events = es ∧
      t.trace = s.trace ++ [.apply p, .ackSent] := by
  have happly : step s = .next (s.appliedFrame p) := step_sink_ok (h.applying hfull) (h.frame hfull) hev
  have hacking : (s.appliedFrame p).dfc.st = .acking := rfl
  have hrefused := runFor_of_transient (s := s.appliedFrame p) (es := List.replicate k (.tx (.accepted 0)))
    (more := .tx (.accepted 1) :: es) (by simp [hacking])
    (fun e he => by rw [List.eq_of_mem_replicate he, hacking]; rfl) (by simp [State.appliedFrame, hev])
  rw [List.length_replicate] at hrefused
  obtain ⟨u, hu, hrun⟩ : ∃ u, u = { s.appliedFrame p with
      events := .tx (.accepted 1) :: es, tick := (s.appliedFrame p).tick + k } ∧
      runFor k (s.appliedFrame p) = .next u := ⟨_, rfl, hrefused⟩
  have hack : step u = .next u.acknowledged := step_tx_accepted (by rw [hu]; rfl) (by rw [hu])
  refine ⟨u.acknowledged, ?run, ?fields⟩
  case run =>
    rw [show k + 2 = k + 1 + 1 by omega, runFor_succ_of_step _ happly, runFor_add_of_next k 1 hrun]
    exact runFor_succ_of_step 0 hack
  case fields =>
    subst hu
    exact ⟨rfl, rfl, rfl, rfl, rfl, by simp [State.acknowledged, State.appliedFrame]⟩

/-- Polls without data leave DFC in `Idle` as it was (R193). -/
theorem run_idle_polls {polls : List (Option (List Byte))} (hst : s.dfc.st = .idle)
    (hpolls : ∀ c ∈ polls, c = none ∨ c = some []) (hev : s.events = polls.map readEvent ++ es) :
    ∃ t : State, runFor polls.length s = .next t ∧ t.dfc = s.dfc ∧ t.h2d = s.h2d ∧ t.events = es ∧
      t.trace = s.trace ∧ SameRecord s t := by
  have htransient : ∀ e ∈ polls.map readEvent, e.transientIn s.dfc.st = true := by
    intro e he
    obtain ⟨c, hc, rfl⟩ := List.mem_map.1 he
    rw [hst]
    obtain rfl | rfl := hpolls c hc <;> rfl
  have hrun := runFor_of_transient (by simp [hst]) htransient hev
  rw [List.length_map] at hrun
  exact ⟨_, hrun, rfl, rfl, rfl, rfl, ⟨rfl, rfl, rfl, rfl, rfl⟩⟩

/-- Settles O38: the polls leave DFC in `Idle`, the reads assemble the payload, and a complete frame is applied
and acknowledged. -/
theorem fullDataMessageRun : Obligations.FullDataMessageRun := by
  intro s p rest polls chunks last k more hst hlen hF hq hpolls hlast hp hev
  have hbytes : (chunks.flatMap fun c => c.getD []) ++ last = p := by simpa using hp
  have hsize : (chunks.flatMap fun c => c.getD []).length + last.length = s.cfg.frameSize := by
    rw [← List.length_append, hbytes, hlen]
  have hpos : 0 < last.length := List.length_pos_iff.2 hlast
  obtain ⟨s₁, hidle, hdfc₁, hh2d₁, hev₁, htrace₁, hrecord₁⟩ := run_idle_polls hst hpolls
    (hev.trans (by rw [List.append_assoc, List.append_assoc]))
  obtain ⟨s₂, hdispatch, hs₂, htrace₂, hrecord₂⟩ := reading_of_dispatch (s := s₁) (left := chunks)
    (rest := last ++ rest)
    (es := .rx (.data last) :: .sink .ok :: List.replicate k (.tx (.accepted 0)) ++ .tx (.accepted 1) :: more)
    (hdfc₁ ▸ hst) (by rw [hrecord₁.cfg]; omega)
    (by simp [hh2d₁, hq, ← hbytes, Config.opFullData])
    (hev₁.trans (by simp [readEvent, Config.opFullData]))
  obtain ⟨s₃, hreads, hs₃, htrace₃, hrecord₃⟩ := hs₂.run
  have hcfg₃ : s₃.cfg = s.cfg := ((hrecord₁.trans hrecord₂).trans hrecord₃).cfg
  obtain ⟨s₄, hread, hs₄, hh2d₄, hev₄, htrace₄, hrecord₄⟩ :=
    hs₃.step_last hlast (by rw [hcfg₃]; exact hsize)
  have hrecord := ((hrecord₁.trans hrecord₂).trans hrecord₃).trans hrecord₄
  rw [List.nil_append, hbytes] at hs₄
  have hfull : p.length = s₄.cfg.frameSize := by rw [hlen, hrecord.cfg]
  obtain ⟨t, hcomplete, hcfg, hdfc, hh2d, hd2h, hevents, htrace⟩ := hs₄.run_complete hfull hev₄
  refine ⟨t, ?run, ?st, ?counter, ?frame, ?flag, ?byte, ?cause, hh2d.trans hh2d₄, ?acks, hevents, ?trace⟩
  case run =>
    rw [show polls.length + chunks.length + k + 4 = polls.length + (1 + (chunks.length + (1 + (k + 2)))) by omega,
      runFor_add_of_next _ _ hidle, runFor_add_of_next 1 _ (runFor_succ_of_step 0 hdispatch),
      runFor_add_of_next _ _ hreads, runFor_add_of_next 1 _ (runFor_succ_of_step 0 hread), hcomplete]
  case st => rw [hdfc]
  case counter => rw [hdfc, ← hlen]; exact hs₄.counter
  case frame => rw [State.frame, hcfg, hdfc]; exact hs₄.frame hfull
  case flag => rw [hdfc]; exact hrecord.invFlag
  case byte => rw [hdfc]; exact hrecord.faultByte
  case cause => rw [hdfc]; exact hrecord.haltCause
  case acks => rw [hd2h, hrecord.d2h]; rfl
  case trace =>
    rw [htrace, htrace₄, htrace₃, htrace₂, htrace₁, List.map_append, storedEvents_append, ← List.flatMap_def]
    simp [-List.length_flatMap, Config.opFullData]

end Sys2Proof.Machine
end

section
/-! PROOF. Every sequence of frames can be delivered (R174). The script of one frame (`frameEvents`) leads from
one frame boundary to the next: the Sender writes the message, DFC receives it whole (by the run of R132 with
one chunk), and the Sender reads the ack and takes its pace. And the permanence of a hang (R239). -/

namespace Sys2Proof.Machine

variable {s t u : State}

/-! ### Runs of the Receiver alone -/

/-- `t` has the parameters, the Sender, the frame source and the clock of `s`. -/
structure SameHost (s t : State) : Prop where
  cfg : t.cfg = s.cfg
  sender : t.sender = s.sender
  source : t.source = s.source
  now : t.now = s.now

/-- While only the Receiver steps, the host and the parameters stay. -/
theorem runFor_of_ofReceiver {es more : List Event} (hev : s.events = es ++ more)
    (hes : ∀ e ∈ es, e.ofReceiver = true) (h : runFor es.length s = .next t) : SameHost s t := by
  induction es generalizing s with
  | nil => cases h; exact ⟨rfl, rfl, rfl, rfl⟩
  | cons e es ih =>
    obtain ⟨he, hes⟩ := List.forall_mem_cons.1 hes
    rw [List.length_cons, runFor_succ] at h
    split at h
    next u hu =>
      have hm := receiverMove_of_step hu (by rwa [State.pending_of_events hev])
      have huev : u.events = es ++ more := by rw [hm.events_eq, hev]; rfl
      obtain ⟨hcfg, hsender, hsource, hnow⟩ := ih huev hes h
      exact ⟨hcfg.trans hm.cfg_eq, hsender.trans hm.sender_eq, hsource.trans hm.source_eq, hnow.trans hm.now_eq⟩
    next => cases h
    next => cases h

/-! ### The script of one frame -/

/-- The Sender takes the frame `p` and writes its message, each write accepted whole. -/
def sendEvents (c : Params) (p : List Byte) : List Event :=
  [.hostLocal, .hostTx (.accepted 1), .elapse c.guardDelay, .hostLocal, .hostTx (.accepted p.length)]

/-- DFC receives the message in two reads, and the sink accepts the frame. -/
def receiveEvents (p : List Byte) : List Event :=
  [.rx (.data [Config.opFullData]), .rx (.data p), .sink .ok, .tx (.accepted 1)]

/-- The Sender reads the ack, and its interval passes. -/
def finishEvents (c : Params) : List Event :=
  [.hostRx (.data [Config.opCommAck]), .hostLocal, .elapse (c.targetInterval.getD 0), .hostLocal]

def frameEvents (c : Params) (p : List Byte) : List Event :=
  sendEvents c p ++ receiveEvents p ++ finishEvents c

/-- Between two frames, with the frames `left` still to send. -/
structure AtBoundary (left : List (List Byte)) (s : State) : Prop where
  frameSize : 1 ≤ s.cfg.frameSize
  hostFrameSize : s.cfg.hostFrameSize = s.cfg.frameSize
  length : ∀ p ∈ left, p.length = s.cfg.frameSize
  phase : s.sender.phase = .ready
  source : s.source = left.map .frame
  st : s.dfc.st = .idle
  h2d : s.h2d = []
  d2h : s.d2h = []

/-! ### From one frame boundary to the next -/

theorem State.pending_of_head {e : Event} (h : s.events.head? = some e) : s.pending = e := by
  obtain ⟨es, hev⟩ := List.head?_eq_some_iff.1 h
  exact State.pending_of_events hev

/-- A run that begins with a step. -/
theorem exists_run_of_step {P : State → Prop} {k : Nat} (hstep : step s = .next t)
    (h : ∃ u, runFor k t = .next u ∧ P u) : ∃ u, runFor (k + 1) s = .next u ∧ P u := by
  obtain ⟨u, hrun, hu⟩ := h
  exact ⟨u, (runFor_succ_of_step k hstep).trans hrun, hu⟩

/-- Where the interval has passed, the next frame follows at once (R168). -/
theorem step_of_pace (hph : s.sender.phase = .pace) (hp : s.pending = .hostLocal)
    (hlate : s.cfg.targetInterval.getD 0 ≤ s.now - s.sender.t0) : step s = .next s.advance.nextFrame := by
  cases hti : s.cfg.targetInterval with
  | none => exact step_of_senderMove (.paceNone hph hti hp)
  | some d => exact step_of_senderMove (.paceLate d hph hti (by simpa [hti] using hlate) hp)

/-- `t` has the parameters, the record of DFC and the trace of `s`. -/
structure SameDevice (s t : State) : Prop where
  cfg : t.cfg = s.cfg
  dfc : t.dfc = s.dfc
  trace : t.trace = s.trace

/-- Between `s` and `t` the frame `p` was delivered: it was applied and acknowledged once, and is in the buffer. -/
structure Delivered (p : List Byte) (s t : State) : Prop where
  applied : applied t.trace = applied s.trace ++ [p]
  acked : acksSent t.trace = acksSent s.trace + 1
  frame : t.frame = some p
  counter : t.dfc.n = s.cfg.frameSize

theorem Delivered.of_sameDevice {p : List Byte} (h : Delivered p t u) (hd : SameDevice s t) : Delivered p s u :=
  ⟨hd.trace ▸ h.applied, hd.trace ▸ h.acked, h.frame, hd.cfg ▸ h.counter⟩

theorem Delivered.trans_sameDevice {p : List Byte} (h : Delivered p s t) (hd : SameDevice t u) :
    Delivered p s u where
  applied := hd.trace ▸ h.applied
  acked := hd.trace ▸ h.acked
  frame := by rw [State.frame, hd.dfc, hd.cfg]; exact h.frame
  counter := hd.dfc ▸ h.counter

/-- Steps 1 to 3 of a frame: its message is on the line, and the Sender waits for the ack. -/
theorem run_send {p : List Byte} {rest : List SourceItem} {es : List Event} (hph : s.sender.phase = .ready)
    (hsource : s.source = .frame p :: rest) (hlen : p.length = s.cfg.hostFrameSize)
    (hev : s.events = sendEvents s.cfg p ++ es) :
    ∃ t : State, runFor 5 s = .next t ∧ SameDevice s t ∧ t.sender.phase = .awaitAck ∧ t.source = rest ∧
      t.h2d = s.h2d ++ Config.opFullData :: p ∧ t.d2h = s.d2h ∧ t.sender.t0 ≤ t.now ∧ t.events = es := by
  unfold sendEvents at hev
  refine exists_run_of_step (step_of_senderMove
    (.pulled p rest hph hsource hlen (State.pending_of_head (by simp [hev])))) ?_
  refine exists_run_of_step (step_of_senderMove
    (.opcodeWritten rfl (State.pending_of_head (by simp [hev])))) ?_
  refine exists_run_of_step (step_of_inputMove
    (.elapse s.cfg.guardDelay (State.pending_of_head (by simp [hev])))) ?_
  refine exists_run_of_step (step_of_senderMove
    (.guarded (s.now + s.cfg.guardDelay) rfl (by simp) (State.pending_of_head (by simp [hev])))) ?_
  refine exists_run_of_step (step_of_senderMove
    (.payloadDone 0 p.length rfl (State.pending_of_head (by simp [hev])) (by simp) (by simp))) ?_
  exact ⟨_, runFor_zero _, ⟨by simp, by simp, by simp⟩, by simp [hev]⟩

/-- Steps 4 to 6 of a frame: its ack is read, and the next frame is due. -/
theorem run_finish {es : List Event} (hph : s.sender.phase = .awaitAck) (hd2h : s.d2h = [Config.opCommAck])
    (ht0 : s.sender.t0 ≤ s.now) (hev : s.events = finishEvents s.cfg ++ es) :
    ∃ t : State, runFor 4 s = .next t ∧ SameDevice s t ∧ t.sender.phase = .ready ∧ t.source = s.source ∧
      t.h2d = s.h2d ∧ t.d2h = [] ∧ t.events = es := by
  unfold finishEvents at hev
  refine exists_run_of_step (step_of_senderMove
    (.ackRead Config.opCommAck hph (State.pending_of_head (by simp [hev])) (by simp [hd2h]))) ?_
  refine exists_run_of_step (step_of_senderMove
    (.acked rfl (State.pending_of_head (by simp [hev])))) ?_
  refine exists_run_of_step (step_of_inputMove
    (.elapse (s.cfg.targetInterval.getD 0) (State.pending_of_head (by simp [hev])))) ?_
  refine exists_run_of_step (step_of_pace rfl (State.pending_of_head (by simp [hev])) ?late) ?_
  case late =>
    show s.cfg.targetInterval.getD 0 ≤ s.now + s.cfg.targetInterval.getD 0 - s.sender.t0
    omega
  exact ⟨_, runFor_zero _, ⟨by simp, by simp, by simp⟩, by simp [hd2h, hev]⟩

/-- DFC receives the message on the line as one chunk, applies it and acknowledges it. -/
theorem run_receive {p : List Byte} {es : List Event} (hst : s.dfc.st = .idle)
    (hlen : p.length = s.cfg.frameSize) (hF : 1 ≤ s.cfg.frameSize) (hq : s.h2d = Config.opFullData :: p)
    (hev : s.events = receiveEvents p ++ es) :
    ∃ t : State, runFor 4 s = .next t ∧ SameHost s t ∧ t.dfc.st = .idle ∧ Delivered p s t ∧
      t.d2h = s.d2h ++ [Config.opCommAck] ∧ t.h2d = [] ∧ t.events = es := by
  have hp : p ≠ [] := List.ne_nil_of_length_pos (by omega)
  obtain ⟨-, -, t, hrun, hst', hn, hframe, -, happlied, hacks, hd2h, hh2d, hevents⟩ :=
    fragmentedPayloadIsReassembled s p [] [p] es hst hlen hF (by simp [hq, Config.opFullData]) (by simpa using hp)
      (by simp) (by simp [hev, receiveEvents, Config.opFullData])
  have hhost := runFor_of_ofReceiver hev (by simp [receiveEvents, Event.ofReceiver]) hrun
  exact ⟨t, hrun, hhost, hst', ⟨happlied, hacks, hframe, hn⟩, hd2h, hh2d, hevents⟩

theorem length_frameEvents (c : Params) (p : List Byte) : (frameEvents c p).length = 5 + (4 + 4) := rfl

/-- One frame is delivered. -/
theorem AtBoundary.deliver {p : List Byte} {left : List (List Byte)} {es : List Event}
    (h : AtBoundary (p :: left) s) (hev : s.events = frameEvents s.cfg p ++ es) :
    ∃ t : State, runFor (frameEvents s.cfg p).length s = .next t ∧ AtBoundary left t ∧ t.events = es ∧
      t.cfg = s.cfg ∧ Delivered p s t := by
  obtain ⟨hF, hhost, hlen, hph, hsource, hst, hh2d, hd2h⟩ := h
  obtain ⟨hp, hleft⟩ := List.forall_mem_cons.1 hlen
  rw [frameEvents, List.append_assoc, List.append_assoc] at hev
  obtain ⟨u, hsend, hdevice₁, hph₁, hsource₁, hh2d₁, hd2h₁, ht0, hev₁⟩ :=
    run_send hph hsource (hp.trans hhost.symm) hev
  obtain ⟨v, hreceive, hhost₂, hst₂, hdelivered, hd2h₂, hh2d₂, hev₂⟩ :=
    run_receive (s := u) (by rw [hdevice₁.dfc, hst]) (by rw [hdevice₁.cfg, hp]) (by rw [hdevice₁.cfg]; exact hF)
      (by rw [hh2d₁, hh2d]; rfl) hev₁
  obtain ⟨t, hfinish, hdevice₃, hph₃, hsource₃, hh2d₃, hd2h₃, hev₃⟩ :=
    run_finish (s := v) (by rw [hhost₂.sender, hph₁]) (by rw [hd2h₂, hd2h₁, hd2h]; rfl)
      (by rw [hhost₂.sender, hhost₂.now]; exact ht0) (by rw [hev₂, hhost₂.cfg, hdevice₁.cfg])
  have hcfg : t.cfg = s.cfg := hdevice₃.cfg.trans (hhost₂.cfg.trans hdevice₁.cfg)
  refine ⟨t, ?run, ?boundary, hev₃, hcfg, (hdelivered.of_sameDevice hdevice₁).trans_sameDevice hdevice₃⟩
  case run => rw [length_frameEvents, runFor_add_of_next 5 _ hsend, runFor_add_of_next 4 4 hreceive, hfinish]
  case boundary =>
    rw [← hcfg] at hF hhost hleft
    exact ⟨hF, hhost, hleft, hph₃, by rw [hsource₃, hhost₂.source, hsource₁], by rw [hdevice₃.dfc, hst₂],
      hh2d₃.trans hh2d₂, hd2h₃⟩

/-- All of a sequence of frames is delivered. -/
theorem AtBoundary.deliverAll {fs more : List (List Byte)} {es : List Event} (h : AtBoundary (fs ++ more) s)
    (hev : s.events = fs.flatMap (frameEvents s.cfg) ++ es) :
    ∃ t : State, runFor (fs.flatMap (frameEvents s.cfg)).length s = .next t ∧ AtBoundary more t ∧
      t.events = es ∧ t.cfg = s.cfg ∧ applied t.trace = applied s.trace ++ fs ∧
      acksSent t.trace = acksSent s.trace + fs.length ∧
      ∀ p, fs.getLast? = some p → t.frame = some p ∧ t.dfc.n = s.cfg.frameSize := by
  induction fs using List.reverseRecOn generalizing more es with
  | nil => exact ⟨s, rfl, h, hev, rfl, by simp, rfl, by simp⟩
  | append_singleton fs p ih =>
    rw [List.append_assoc, List.singleton_append] at h
    rw [List.flatMap_append, List.flatMap_singleton, List.append_assoc] at hev
    obtain ⟨u, hrun, hu, huev, hucfg, huapplied, huacks, -⟩ := ih h hev
    obtain ⟨t, hframe, ht, htev, htcfg, hdelivered⟩ := hu.deliver (by rw [huev, hucfg])
    refine ⟨t, ?_, ht, htev, htcfg.trans hucfg, ?_, ?_, ?_⟩
    · rw [List.flatMap_append, List.flatMap_singleton, List.length_append, runFor_add_of_next _ _ hrun, ← hucfg,
        hframe]
    · rw [hdelivered.applied, huapplied, List.append_assoc]
    · rw [hdelivered.acked, huacks, List.length_append, Nat.add_assoc]
      rfl
    · intro q hq
      obtain rfl : p = q := by simpa using hq
      exact ⟨hdelivered.frame, by rw [hdelivered.counter, hucfg]⟩

/-- Settles O48: the script of every frame in turn, and the Sender finds the source exhausted. -/
theorem everyFrameSequenceCanBeDelivered : Obligations.EveryFrameSequenceCanBeDelivered := by
  intro s fs hF hhost hfs hdfc htrace hh2d hd2h hsender hsource
  generalize hscript : fs.flatMap (frameEvents s.cfg) = script
  have hstart : AtBoundary (fs ++ []) { s with events := script ++ [.hostLocal] } :=
    ⟨hF, hhost, by simpa using hfs, by rw [hsender]; rfl, by simpa using hsource, by rw [hdfc]; rfl, hh2d, hd2h⟩
  obtain ⟨t, hrun, ⟨-, -, -, hph, hleft, hst, hempty, hempty'⟩, hev, hcfg, happlied, hacks, hheld⟩ :=
    hstart.deliverAll (es := [.hostLocal]) (by rw [← hscript])
  have hdone : step t = .next (t.advance.setPhase .done) :=
    step_of_senderMove (.exhausted hph hleft (State.pending_of_events hev))
  refine ⟨script ++ [.hostLocal], t.advance.setPhase .done, ?run, ⟨rfl, hempty, hempty', hst⟩, ?applied, ?acks,
    hheld⟩
  case run =>
    rw [List.length_append, runFor_add_of_next _ _ (hscript ▸ hrun)]
    exact runFor_succ_of_step 0 hdone
  case applied =>
    refine Eq.trans happlied ?_
    rw [htrace]
    rfl
  case acks =>
    refine Eq.trans hacks ?_
    rw [htrace]
    exact Nat.zero_add _

/-! ### The permanence of a hang (R239) -/

/-- Being hung is said of the record of DFC, the Sender, the queues and the parameters. -/
theorem Hung.of_eq (h : Hung s) (hcfg : t.cfg = s.cfg) (hdfc : t.dfc = s.dfc) (hh2d : t.h2d = s.h2d)
    (hd2h : t.d2h = s.d2h) (hsender : t.sender = s.sender) : Hung t := by
  unfold Hung EndedWell EndedInFailure NoProgress
  rw [hcfg, hdfc, hh2d, hd2h, hsender]
  exact h

/-- With nothing to read, and no fatal answer, the Receiver's polls change nothing. -/
theorem ReceiverMove.eq_advance_of_noProgress (hm : ReceiverMove s t) (h : NoProgress s)
    (hfatal : s.pending.fatal = false) : t = s.advance := by
  obtain ⟨hst, hh2d, -⟩ := h
  cases hm with
  | idleNoData | idleEmpty | recvNoData => rfl
  | idleFulldata _ _ hq | idleCommack _ _ hq | idleInvalid _ _ _ hq => simp [hh2d] at hq
  | recvData bs _ _ _ _ hq =>
    obtain rfl : bs = [] := by simpa [hh2d] using hq
    rfl
  | idleError _ _ hp | recvError _ _ _ hp => simp [hp, Event.fatal] at hfatal
  | applyOk _ hst' | applyFail _ hst' | ackRefused hst' | ackAccepted hst' | ackError hst' => simp [hst'] at hst

/-- With nothing to read, no deadline and no fatal answer, the Sender's polls change nothing. -/
theorem SenderMove.eq_advance_of_noProgress (hm : SenderMove s t) (h : NoProgress s)
    (hfatal : s.pending.hostFatal = false) : t = s.advance := by
  obtain ⟨-, -, hdone | ⟨hph, hd2h, hdl⟩⟩ := h
  · have hrunning := hm.running
    simp [hdone, Phase.running] at hrunning
  cases hm with
  | ackTimeout | ackEmpty => exact retryAck_of_none (s := s.advance) hdl
  | ackRead b _ _ hq => simp [hd2h] at hq
  | ackError c _ hp => simp [hp, Event.hostFatal] at hfatal
  | _ => simp_all

theorem Hung.step (h : Hung s) (hstray : s.pending.stray = false) (hfatal : s.pending.fatal = false)
    (hhost : s.pending.hostFatal = false) (hstep : Machine.step s = .next t) : Hung t := by
  have hwait : Hung s.advance := h.of_eq rfl rfl rfl rfl rfl
  have ⟨_, _, hprogress⟩ := h
  obtain hr | hs | hi := step_cases hstep
  · rw [hr.eq_advance_of_noProgress hprogress hfatal]
    exact hwait
  · rw [hs.eq_advance_of_noProgress hprogress hhost]
    exact hwait
  · cases hi with
    | inject bs hp => simp [hp, Event.stray] at hstray
    | elapse => exact h.of_eq rfl rfl rfl rfl rfl
    | rst hp => simp [hp, Event.stray] at hstray

/-- Settles O52: the polls of a hung pair change nothing, and they are always possible. -/
theorem hungPairStaysHung : Obligations.HungPairStaysHung := by
  intro s h
  refine ⟨fun t => h.step, fun hph hp => ?timeout, fun hst hp => ?poll⟩
  case timeout =>
    have hstep := step_of_no_ack hph (.inl hp)
    exact ⟨_, hstep, h.step (by rw [hp]; rfl) (by rw [hp]; rfl) (by rw [hp]; rfl) hstep⟩
  case poll =>
    have hstep : Machine.step s = .next s.advance := by
      obtain hst | ⟨hst, hn⟩ := hst
      · exact step_of_receiverMove (.idleNoData hst hp)
      · exact step_of_receiverMove (.recvNoData hst hn hp)
    exact ⟨_, hstep, h.step (by rw [hp]; rfl) (by rw [hp]; rfl) (by rw [hp]; rfl) hstep⟩

end Sys2Proof.Machine
end

section
/-! PROOF. A frame whose bytes are queued is acknowledged on every fair run (R175, F1 to F4). While DFC is in a
message with the rest of it queued (`InMessage`), every step leaves DFC, or brings it closer to the ack
(`messageRank`), or is the accepted ack; and fairness excludes that all steps leave it. -/

namespace Sys2Proof.Machine

/-! ### A state with one event to come -/

section
variable (s : State) (e : Event)

@[simp] theorem State.given_cfg : (s.given e).cfg = s.cfg := rfl
@[simp] theorem State.given_dfc : (s.given e).dfc = s.dfc := rfl
@[simp] theorem State.given_trace : (s.given e).trace = s.trace := rfl
@[simp] theorem State.given_h2d : (s.given e).h2d = s.h2d := rfl
@[simp] theorem State.given_d2h : (s.given e).d2h = s.d2h := rfl
@[simp] theorem State.given_sender : (s.given e).sender = s.sender := rfl
@[simp] theorem State.given_source : (s.given e).source = s.source := rfl
@[simp] theorem State.given_now : (s.given e).now = s.now := rfl

end

variable {s t : State}

/-! ### DFC in a message -/

/-- DFC is in a message that needs no further byte from the host. -/
def InMessage (s : State) : Prop :=
  (s.dfc.st = .recv ∧ s.dfc.n < s.cfg.frameSize ∧ s.cfg.frameSize - s.dfc.n ≤ s.h2d.length) ∨
    s.dfc.st = .applying ∨ s.dfc.st = .acking

/-- How far DFC is from the ack: the bytes it has still to read, the hand-over and the ack itself. -/
def messageRank (s : State) : Nat :=
  s.cfg.frameSize - s.dfc.n +
    match s.dfc.st with
    | .recv | .applying => 2
    | .acking => 1
    | .idle | .halted => 0

theorem messageRank_congr (hcfg : t.cfg = s.cfg) (hdfc : t.dfc = s.dfc) : messageRank t = messageRank s := by
  unfold messageRank
  rw [hcfg, hdfc]

theorem InMessage.not_halted (h : InMessage s) : s.dfc.st ≠ .halted := by
  obtain ⟨hst, -⟩ | hst | hst := h <;> simp [hst]

/-- Bytes that join `h2d` do no harm. -/
theorem InMessage.of_h2d_prefix (h : InMessage s) (hcfg : t.cfg = s.cfg) (hdfc : t.dfc = s.dfc)
    (hq : s.h2d <+: t.h2d) : InMessage t := by
  unfold InMessage
  rw [hcfg, hdfc]
  exact h.imp_left fun ⟨hst, hn, hlen⟩ => ⟨hst, hn, hlen.trans hq.length_le⟩

/-- The acceptance of the ack is the one move out of a message that is not fatal. -/
def AckAccepted (s : State) : Prop := s.dfc.st = .acking ∧ s.pending = .tx (.accepted 1)

/-- A read in `Recv` of some of the bytes queued brings the ack closer. -/
theorem inMessage_storePayload {bs : List Byte} (hst : s.dfc.st = .recv) (hbs : bs ≠ [])
    (hn : s.dfc.n < s.cfg.frameSize) (hlen : s.cfg.frameSize - s.dfc.n ≤ s.h2d.length)
    (hroom : bs.length ≤ s.room) :
    InMessage (storePayload bs (s.advance.popH2d bs.length)) ∧
      messageRank (storePayload bs (s.advance.popH2d bs.length)) < messageRank s := by
  have hpos : 0 < bs.length := List.length_pos_iff.2 hbs
  have hst' : (storePayload bs (s.advance.popH2d bs.length)).dfc.st =
      if s.dfc.n + bs.length = s.cfg.frameSize then .applying else .recv := by
    simp [storePayload_dfc_st, hst, hbs]
  rw [State.room] at hroom
  unfold InMessage messageRank
  rw [hst', storePayload_dfc_n, storePayload_cfg, storePayload_h2d, hst]
  simp only [State.popH2d_dfc, State.popH2d_cfg, State.popH2d_h2d, State.advance_dfc, State.advance_cfg,
    State.advance_h2d, List.length_drop]
  split_ifs with hcomplete
  · exact ⟨.inr (.inl rfl), by simp only; omega⟩
  · exact ⟨.inl ⟨rfl, by omega, by omega⟩, by simp only; omega⟩

theorem ReceiverMove.inMessage (hm : ReceiverMove s t) (h : InMessage s) (hfatal : s.pending.fatal = false) :
    (t.dfc = s.dfc ∧ t.h2d = s.h2d) ∨ (InMessage t ∧ messageRank t < messageRank s) ∨ AckAccepted s := by
  cases hm with
  | recvNoData | ackRefused => exact .inl ⟨rfl, rfl⟩
  | recvData bs hst hn _ hroom _ =>
    by_cases hbs : bs = []
    · subst hbs
      exact .inl ⟨rfl, rfl⟩
    · obtain ⟨-, -, hlen⟩ | hst' | hst' := h
      · exact .inr (.inl (inMessage_storePayload hst hbs hn hlen hroom))
      · simp [hst] at hst'
      · simp [hst] at hst'
  | applyOk bs hst =>
    refine .inr (.inl ⟨.inr (.inr rfl), ?_⟩)
    simp [messageRank, hst]
  | ackAccepted hst hp => exact .inr (.inr ⟨hst, hp⟩)
  | recvError _ _ _ hp | applyFail _ _ _ hp | ackError _ hp => simp [hp, Event.fatal] at hfatal
  | idleNoData hst | idleEmpty hst | idleFulldata hst | idleCommack hst | idleInvalid _ hst
  | idleError _ hst => simp [InMessage, hst] at h

/-- Every step leaves DFC in its message as it was, or closer to the ack, or is the accepted ack. -/
theorem step_inMessage (hstep : step s = .next t) (h : InMessage s) (hfatal : s.pending.fatal = false)
    (hrst : s.pending ≠ .rst) :
    (InMessage t ∧ t.dfc = s.dfc) ∨ (InMessage t ∧ messageRank t < messageRank s) ∨ AckAccepted s := by
  have hcfg := step_cfg_eq hstep
  obtain hr | hs | hi := step_cases hstep
  · obtain ⟨hdfc, hq⟩ | hcloser := hr.inMessage h hfatal
    · exact .inl ⟨h.of_h2d_prefix hcfg hdfc (hq ▸ List.prefix_refl s.h2d), hdfc⟩
    · exact .inr hcloser
  · exact .inl ⟨h.of_h2d_prefix hcfg hs.dfc_eq hs.h2d_prefix, hs.dfc_eq⟩
  · exact .inl ⟨h.of_h2d_prefix hcfg (hi.dfc_eq hrst) hi.h2d_prefix, hi.dfc_eq hrst⟩

/-! ### What the control state says of a move -/

/-- In `Idle` and `Recv` the event is an answer to a read. -/
theorem ReceiverMove.exists_rx (hm : ReceiverMove s t) (hst : s.dfc.st = .idle ∨ s.dfc.st = .recv) :
    ∃ o, s.pending = .rx o := by
  cases hm with
  | applyOk _ hst' | applyFail _ hst' | ackRefused hst' | ackAccepted hst' | ackError hst' => simp [hst'] at hst
  | _ => exact ⟨_, ‹s.pending = _›⟩

theorem ReceiverMove.exists_tx (hm : ReceiverMove s t) (hst : s.dfc.st = .acking) : ∃ o, s.pending = .tx o := by
  cases hm with
  | ackRefused _ hp | ackAccepted _ hp | ackError _ hp => exact ⟨_, hp⟩
  | _ => simp_all

/-- A read of bytes in `Recv` moves the counter. -/
theorem ReceiverMove.dfc_ne_of_data {b : Byte} {bs : List Byte} (hm : ReceiverMove s t) (hst : s.dfc.st = .recv)
    (hp : s.pending = .rx (.data (b :: bs))) : t.dfc ≠ s.dfc := by
  intro heq
  have hn := congrArg Dfc.n heq
  rw [hm.eq_storePayload hst hp] at hn
  simp at hn

theorem ReceiverMove.st_ne_of_applying (hm : ReceiverMove s t) (hst : s.dfc.st = .applying) :
    t.dfc.st ≠ .applying := by
  cases hm <;> simp_all

theorem ReceiverMove.st_ne_of_accepted {n : Nat} (hm : ReceiverMove s t) (hst : s.dfc.st = .acking)
    (hp : s.pending = .tx (.accepted (n + 1))) : t.dfc.st ≠ .acking := by
  cases hm <;> simp_all

/-! ### Fair runs of the Receiver (F1 to F4 of R175) -/

section
variable {es : Nat → Event} {r : Nat → State}

/-- No step changes the parameters. -/
theorem IsRun.cfg_eq (hrun : IsRun es r) (k : Nat) : (r k).cfg = (r 0).cfg := by
  induction k with
  | zero => rfl
  | succ k ih => exact (step_cfg_eq (hrun k)).trans ih

/-- A run without a fatal answer to DFC and without a reset, on which F1 to F4 hold. -/
structure FairDevice (es : Nat → Event) (r : Nat → State) : Prop where
  run : IsRun es r
  receiver : ReceiverFair es r
  rx : RxFair es r
  tx : TxFair es
  calm : ∀ k, (es k).fatal = false ∧ es k ≠ .rst

theorem IsRun.receiverMove {k : Nat} (hrun : IsRun es r) (he : (es k).ofReceiver = true) :
    ReceiverMove ((r k).given (es k)) (r (k + 1)) := receiverMove_of_step (hrun k) he

/-- F1, while DFC is not halted. -/
theorem FairDevice.exists_receiverMove (h : FairDevice es r) {k : Nat}
    (hst : ∀ i, k ≤ i → (r i).dfc.st ≠ .halted) (i : Nat) (hi : k ≤ i) :
    ∃ j, i ≤ j ∧ ReceiverMove ((r j).given (es j)) (r (j + 1)) := by
  obtain ⟨j, hij, hhalted | he⟩ := h.receiver i
  · exact absurd hhalted (hst j (hi.trans hij))
  · exact ⟨j, hij, h.run.receiverMove he⟩

/-- DFC does not stay in a message for ever. -/
theorem FairDevice.not_always_inMessage (h : FairDevice es r) {k : Nat}
    (hmsg : ∀ i, k ≤ i → InMessage (r i) ∧ (r i).dfc = (r k).dfc) : False := by
  have hdfc {i : Nat} (hi : k ≤ i) : (r (i + 1)).dfc = ((r i).given (es i)).dfc :=
    (hmsg (i + 1) (by omega)).2.trans (hmsg i hi).2.symm
  have hst {i : Nat} (hi : k ≤ i) : (r i).dfc.st = (r k).dfc.st := congrArg Dfc.st (hmsg i hi).2
  have hmove := h.exists_receiverMove fun i hi => (hmsg i hi).1.not_halted
  obtain ⟨hrecv, -⟩ | happlying | hacking := (hmsg k le_rfl).1
  · have hqueued (i : Nat) (hi : k ≤ i) : (r i).h2d ≠ [] := by
      obtain ⟨-, hn, hlen⟩ | hst' | hst' := (hmsg i hi).1
      · exact List.ne_nil_of_length_pos (by omega)
      · simp [hst hi, hrecv] at hst'
      · simp [hst hi, hrecv] at hst'
    have hpolls (i : Nat) (hi : k ≤ i) : ∃ j o, i ≤ j ∧ es j = .rx o := by
      obtain ⟨j, hij, hm⟩ := hmove i hi
      obtain ⟨o, ho⟩ := hm.exists_rx (.inr ((hst (hi.trans hij)).trans hrecv))
      exact ⟨j, o, hij, ho⟩
    obtain ⟨i, b, bs, hi, he⟩ := h.rx k hqueued hpolls
    have hm := h.run.receiverMove (k := i) (by rw [he]; rfl)
    exact hm.dfc_ne_of_data ((hst hi).trans hrecv) he (hdfc hi)
  · obtain ⟨j, hj, hm⟩ := hmove k le_rfl
    exact hm.st_ne_of_applying ((hst hj).trans happlying) ((hst (by omega)).trans happlying)
  · have hoffers (i : Nat) (hi : k ≤ i) : ∃ j o, i ≤ j ∧ es j = .tx o := by
      obtain ⟨j, hij, hm⟩ := hmove i hi
      obtain ⟨o, ho⟩ := hm.exists_tx ((hst (hi.trans hij)).trans hacking)
      exact ⟨j, o, hij, ho⟩
    obtain ⟨i, n, hi, he⟩ := h.tx k hoffers
    have hm := h.run.receiverMove (k := i) (by rw [he]; rfl)
    exact hm.st_ne_of_accepted ((hst hi).trans hacking) he ((hst (by omega)).trans hacking)

/-- A DFC in a message comes closer to the ack, or the ack is accepted. -/
theorem FairDevice.exists_closer_or_ack (h : FairDevice es r) {k : Nat} (hmsg : InMessage (r k)) :
    (∃ i, k ≤ i ∧ AckAccepted ((r i).given (es i))) ∨
      ∃ i, k ≤ i ∧ InMessage (r i) ∧ messageRank (r i) < messageRank (r k) := by
  by_contra hstuck
  obtain ⟨hnoack, hnocloser⟩ := not_or.1 hstuck
  refine h.not_always_inMessage (k := k) fun i hi => ?_
  induction i, hi using Nat.le_induction with
  | base => exact ⟨hmsg, rfl⟩
  | succ i hi ih =>
    obtain ⟨hmsg, hdfc⟩ := ih
    obtain ⟨hfatal, hrst⟩ := h.calm i
    obtain ⟨hmsg', hdfc'⟩ | ⟨hmsg', hcloser⟩ | hack :=
      step_inMessage (h.run i) (hmsg.of_h2d_prefix rfl rfl (List.prefix_refl _)) hfatal hrst
    · exact ⟨hmsg', hdfc'.trans hdfc⟩
    · have hsame : messageRank ((r i).given (es i)) = messageRank (r k) :=
        messageRank_congr ((h.run.cfg_eq i).trans (h.run.cfg_eq k).symm) hdfc
      exact absurd ⟨i + 1, by omega, hmsg', hsame ▸ hcloser⟩ hnocloser
    · exact absurd ⟨i, hi, hack⟩ hnoack

/-- A DFC in a message has its ack accepted in the end. -/
theorem FairDevice.exists_ackAccepted (h : FairDevice es r) {k : Nat} (hmsg : InMessage (r k)) :
    ∃ i, k ≤ i ∧ AckAccepted ((r i).given (es i)) := by
  induction hrank : messageRank (r k) using Nat.strong_induction_on generalizing k with
  | _ rank ih =>
    subst hrank
    obtain hack | ⟨i, hi, hmsg, hcloser⟩ := h.exists_closer_or_ack hmsg
    · exact hack
    · obtain ⟨j, hj, hack⟩ := ih _ hcloser hmsg rfl
      exact ⟨j, hi.trans hj, hack⟩

/-- The step that accepts the ack (R128). -/
theorem eq_acknowledged_of_ackAccepted (h : AckAccepted s) (hstep : step s = .next t) : t = s.acknowledged := by
  obtain ⟨hst, hp⟩ := h
  rw [step_of_receiverMove (.ackAccepted hst hp)] at hstep
  exact (Host.Outcome.next.inj hstep).symm

end

/-- Settles O49: a frame whose bytes are queued is a message that needs no further byte. -/
theorem fairRunsAcknowledgeTheFrame : Obligations.FairRunsAcknowledgeTheFrame := by
  intro es r hrun hfair hrx htx hno hinv hst hlen
  have hmsg : InMessage (r 0) := .inl ⟨hst, hinv.recv_lt hst, hlen⟩
  have h : FairDevice es r := ⟨hrun, hfair, hrx, htx, hno⟩
  obtain ⟨i, -, hack⟩ := h.exists_ackAccepted hmsg
  have hnext := eq_acknowledged_of_ackAccepted hack (hrun i)
  refine ⟨i + 1, ?_⟩
  rw [hnext]
  simp [State.acknowledged]

end Sys2Proof.Machine
end

section
/-! PROOF. Every fair run of the closed loop delivers every frame (R174, R175). Along it the loop is in step and
nothing fails (`OnCourse`). Every Sender step leaves the Sender as it was or brings it closer to `Done`
(`senderRank`), and fairness excludes that from some point on all of them leave it: a write is accepted in the
end, a delay passes, and an ack comes, since DFC acknowledges the frame it is sent. -/

namespace Sys2Proof.Machine

variable {s t : State} {fs : List (List Byte)}

/-! ### A loop that is on course -/

/-- The loop is in step, neither end has failed, and the host waits without a deadline. -/
structure OnCourse (fs : List (List Byte)) (s : State) : Prop where
  link : LinkInv fs s
  running : s.dfc.st ≠ .halted
  notFailed : ∀ point cause, s.sender.phase ≠ .failed point cause
  noDeadline : s.cfg.ackDeadline = none

theorem OnCourse.given (h : OnCourse fs s) (e : Event) : OnCourse fs (s.given e) :=
  ⟨h.link, h.running, h.notFailed, h.noDeadline⟩

theorem QuietLink.h2d_of_idle (h : QuietLink s) (hst : s.dfc.st = .idle) : s.h2d = [] := by
  obtain ⟨-, hst' | ⟨-, hq⟩⟩ := h
  · simp [hst] at hst'
  · exact hq

/-- In `Idle` the first byte queued, if there is one, is the opcode of a FullData. -/
theorem OnCourse.h2d_of_idle (h : OnCourse fs s) (hst : s.dfc.st = .idle) :
    s.h2d = [] ∨ ∃ q, s.h2d = Config.opFullData :: q := by
  obtain ⟨⟨-, -, -, hlink⟩, -, hph, -⟩ := h
  have hsending {m : Nat} (h : SendingLink m s) : s.h2d = [] ∨ ∃ q, s.h2d = Config.opFullData :: q := by
    obtain ⟨-, hst' | ⟨-, hq⟩ | ⟨hst', -⟩⟩ := h
    · simp [hst] at hst'
    · exact .inr ⟨_, hq⟩
    · simp [hst] at hst'
  cases hphase : s.sender.phase <;> simp only [hphase] at hlink
  case ready =>
    obtain ⟨-, -, hquiet, -⟩ := hlink
    exact .inl (hquiet.h2d_of_idle hst)
  case writeOpcode | pace | pacingSleep =>
    obtain ⟨-, hquiet, -⟩ := hlink
    exact .inl (hquiet.h2d_of_idle hst)
  case guardDelay =>
    obtain ⟨-, hsent, -⟩ := hlink
    exact hsending hsent
  case writePayload =>
    obtain ⟨-, -, hsent, -⟩ := hlink
    exact hsending hsent
  case awaitAck =>
    obtain ⟨-, hawaiting⟩ := hlink
    obtain ⟨hq, -⟩ | ⟨hq, -⟩ := (awaitingLink_of_idle fs hst).1 hawaiting
    · exact .inr ⟨_, hq⟩
    · exact .inl hq
  case checkAck =>
    obtain ⟨-, -, hquiet, -⟩ := hlink
    exact .inl (hquiet.h2d_of_idle hst)
  case done =>
    obtain ⟨hquiet, -⟩ := hlink
    exact .inl (hquiet.h2d_of_idle hst)
  case failed point cause => exact absurd hphase (hph point cause)

/-- On course only a fatal answer halts DFC. -/
theorem ReceiverMove.not_halted_of_onCourse (hm : ReceiverMove s t) (h : OnCourse fs s)
    (hfatal : s.pending.fatal = false) : t.dfc.st ≠ .halted := by
  cases hm with
  | idleError _ _ hp | recvError _ _ _ hp | applyFail _ _ _ hp | ackError _ hp => simp [hp, Event.fatal] at hfatal
  | idleInvalid b hst _ hb hfull =>
    obtain hq | ⟨q, hq⟩ := h.h2d_of_idle hst
    · simp [hq] at hb
    · exact absurd (by simpa [hq] using hb) hfull
  | recvData bs hst =>
    rw [storePayload_dfc_st]
    split_ifs <;> simp [hst]
  | _ => simp [*]

/-- On course only a fatal answer fails the transfer. -/
theorem SenderMove.not_failed_of_onCourse (hm : SenderMove s t) (h : OnCourse fs s)
    (hfatal : s.pending.hostFatal = false) (point : FailPoint) (cause : FailCause) :
    t.sender.phase ≠ .failed point cause := by
  obtain ⟨⟨-, -, -, hlink⟩, -, hph, hdl⟩ := h
  cases hm with
  | sourceFailed rest hphase hsource =>
    simp only [hphase] at hlink
    obtain ⟨-, hleft, -⟩ := hlink
    rw [hsource] at hleft
    obtain ⟨_, _, -, hframe, -⟩ := List.map_eq_cons_iff.1 hleft.symm
    cases hframe
  | opcodeError _ hp | payloadError _ _ hp | ackError _ _ hp => simp [hp, Event.hostFatal] at hfatal
  | ackTimeout | ackEmpty =>
    rw [retryAck_of_none (s := s.advance) hdl]
    exact hph point cause
  | notAnAck b hphase hb =>
    simp only [hphase] at hlink
    exact absurd hlink.1 hb
  | opcodeRefused | guarding | sleeping => exact hph point cause
  | _ => simp

theorem OnCourse.step (h : OnCourse fs s) (hstep : Machine.step s = .next t) (hfatal : s.pending.fatal = false)
    (hhost : s.pending.hostFatal = false) (hstray : s.pending.stray = false) : OnCourse fs t where
  link := everyStepKeepsTheLinkInStep fs s t h.link hstray hstep
  running := by
    by_cases hr : ReceiverMove s t
    · exact hr.not_halted_of_onCourse h hfatal
    · have hrst : s.pending ≠ .rst := fun hp => by simp [hp, Event.stray] at hstray
      rw [(step_dfc_trace_eq hstep hr hrst).1]
      exact h.running
  notFailed := by
    by_cases hs : SenderMove s t
    · exact hs.not_failed_of_onCourse h hhost
    · rw [(step_sender_source_eq hstep hs).1]
      exact h.notFailed
  noDeadline := step_cfg_eq hstep ▸ h.noDeadline

/-! ### How far the Sender is from `Done` -/

/-- What the Sender has still to do for the frame it is at. -/
def phaseRank (F : Nat) : Phase → Nat
  | .ready => F + 7
  | .writeOpcode => F + 6
  | .guardDelay _ => F + 5
  | .writePayload m => F - m + 4
  | .awaitAck => 4
  | .checkAck _ => 3
  | .pace => 2
  | .pacingSleep _ => 1
  | .done => 0
  | .failed _ _ => 0

/-- What the Sender has still to do for the frames `fs`. -/
def senderRank (fs : List (List Byte)) (s : State) : Nat :=
  (fs.length - s.sender.j) * (s.cfg.frameSize + 8) + phaseRank s.cfg.frameSize s.sender.phase

theorem senderRank_congr (hcfg : t.cfg = s.cfg) (hsender : t.sender = s.sender) :
    senderRank fs t = senderRank fs s := by
  unfold senderRank
  rw [hcfg, hsender]

/-- Within a frame the phase decides. -/
theorem senderRank_lt_of_phase (hcfg : t.cfg = s.cfg) (hj : t.sender.j = s.sender.j)
    (h : phaseRank s.cfg.frameSize t.sender.phase < phaseRank s.cfg.frameSize s.sender.phase) :
    senderRank fs t < senderRank fs s := by
  unfold senderRank
  rw [hcfg, hj]
  omega

/-- The next frame is one frame less. -/
theorem senderRank_nextFrame_lt (hj : s.sender.j < fs.length) :
    senderRank fs s.advance.nextFrame < senderRank fs s := by
  have hsplit : fs.length - s.sender.j = (fs.length - (s.sender.j + 1)) + 1 := by omega
  unfold senderRank
  simp only [State.nextFrame_sender_j, State.nextFrame_cfg, State.nextFrame_sender_phase, State.advance_sender,
    State.advance_cfg, phaseRank]
  rw [hsplit, Nat.add_one_mul]
  omega

theorem SenderMove.closer (hm : SenderMove s t) (h : OnCourse fs s) (hfatal : s.pending.hostFatal = false) :
    t.sender = s.sender ∨ senderRank fs t < senderRank fs s := by
  obtain ⟨⟨-, -, hfs, hlink⟩, -, -, hdl⟩ := h
  cases hm with
  | opcodeRefused | guarding | sleeping => exact .inl rfl
  | ackTimeout | ackEmpty =>
    left
    rw [retryAck_of_none (s := s.advance) hdl]
    rfl
  | payloadPart m k hph _ hk hpart =>
    simp only [hph] at hlink
    obtain ⟨hm, hin, -⟩ := hlink
    have hlen := hin.length_payload hfs
    rw [List.length_drop] at hk
    by_cases hzero : k = 0
    · left
      subst hzero
      show (s.setPhase (.writePayload m)).sender = s.sender
      rw [State.setPhase_self hph]
    · exact .inr (senderRank_lt_of_phase rfl rfl (by simp [hph, phaseRank]; omega))
  | payloadDone m k hph =>
    simp only [hph] at hlink
    obtain ⟨hm, -⟩ := hlink
    exact .inr (senderRank_lt_of_phase rfl rfl (by simp [hph, phaseRank]; omega))
  | guarded wake hph =>
    simp only [hph] at hlink
    exact .inr (senderRank_lt_of_phase rfl rfl (by simp [hph, phaseRank]))
  | paceNone hph | paceLate _ hph | woken _ hph =>
    simp only [hph] at hlink
    obtain ⟨hin, -⟩ := hlink
    exact .inr (senderRank_nextFrame_lt hin.lt_length)
  | opcodeError _ hp | payloadError _ _ hp | ackError _ _ hp => simp [hp, Event.hostFatal] at hfatal
  | exhausted hph | sourceFailed _ hph | pulled _ _ hph | opcodeWritten hph | ackRead _ hph | acked hph
  | notAnAck _ hph | paceSleep _ hph =>
    exact .inr (senderRank_lt_of_phase rfl rfl (by simp [hph, phaseRank]))

/-! ### The Sender's moves that leave the Sender -/

/-- The polls of a delay, of a write and of a read, by phase. -/
theorem SenderMove.of_phase_eq (hm : SenderMove s t) (hphase : t.sender.phase = s.sender.phase) :
    ((s.sender.phase = .writeOpcode ∨ ∃ m, s.sender.phase = .writePayload m) ∧
      s.pending = .hostTx (.accepted 0)) ∨
    (∃ wake, (s.sender.phase = .guardDelay wake ∨ s.sender.phase = .pacingSleep wake) ∧ s.now < wake) ∨
    (s.sender.phase = .awaitAck ∧ (s.pending = .hostRx .noData ∨ s.pending = .hostRx (.data []))) := by
  cases hm with
  | opcodeRefused hph hp => exact .inl ⟨.inl hph, hp⟩
  | payloadPart m k hph hp =>
    obtain rfl : k = 0 := by simpa [hph] using hphase
    exact .inl ⟨.inr ⟨m, hph⟩, hp⟩
  | guarding wake hph hw => exact .inr (.inl ⟨wake, .inl hph, hw⟩)
  | sleeping wake hph hw => exact .inr (.inl ⟨wake, .inr hph, hw⟩)
  | ackTimeout hph hp => exact .inr (.inr ⟨hph, .inl hp⟩)
  | ackEmpty hph hp => exact .inr (.inr ⟨hph, .inr hp⟩)
  | _ => simp_all

theorem SenderMove.d2h_of_phase_eq (hm : SenderMove s t) (hphase : t.sender.phase = s.sender.phase) :
    t.d2h = s.d2h := by
  cases hm with
  | ackRead _ hph | ackError _ hph => simp [hph] at hphase
  | _ => simp

/-- Unless the Sender reads it, an ack stays on `d2h`. -/
theorem d2h_ne_nil_of_phase_eq (hstep : step s = .next t) (hphase : t.sender.phase = s.sender.phase)
    (h : s.d2h ≠ []) : t.d2h ≠ [] := by
  obtain hr | hs | hi := step_cases hstep
  · obtain hd2h | ⟨-, -, hd2h⟩ := hr.d2h_eq_or_acked
    · exact hd2h ▸ h
    · simp [hd2h]
  · exact hs.d2h_of_phase_eq hphase ▸ h
  · exact hi.d2h_eq ▸ h

/-- The wall clock never goes back. -/
theorem now_le_of_step (hstep : step s = .next t) : s.now ≤ t.now := by
  obtain hr | hs | hi := step_cases hstep
  · exact hr.now_eq.ge
  · exact hs.now_eq.ge
  · cases hi <;> simp

/-! ### Fair runs of the closed loop -/

section
variable {es : Nat → Event} {r : Nat → State}

theorem IsRun.now_mono (hrun : IsRun es r) {i j : Nat} (hij : i ≤ j) : (r i).now ≤ (r j).now :=
  monotone_nat_of_le_succ (f := fun k => (r k).now)
    (fun k => now_le_of_step (s := (r k).given (es k)) (hrun k)) hij

theorem IsRun.onCourse (hrun : IsRun es r)
    (hno : ∀ k, (es k).fatal = false ∧ (es k).hostFatal = false ∧ (es k).stray = false)
    (hstart : OnCourse fs (r 0)) (k : Nat) : OnCourse fs (r k) := by
  induction k with
  | zero => exact hstart
  | succ k ih =>
    obtain ⟨hfatal, hhost, hstray⟩ := hno k
    exact (ih.given (es k)).step (hrun k) hfatal hhost hstray

/-- A run of the closed loop without a fatal answer and without a stray byte or reset, that starts on course and
on which F1 to F5 hold. -/
structure FairLoop (fs : List (List Byte)) (es : Nat → Event) (r : Nat → State) : Prop
    extends FairDevice es r where
  hostRx : HostRxFair es r
  hostTx : HostTxFair es
  sender : SenderFair es r
  hostCalm : ∀ k, (es k).hostFatal = false
  course : ∀ k, OnCourse fs (r k)

variable {k : Nat}

/-- F5, while the Sender stands still. -/
theorem FairLoop.exists_move (h : FairLoop fs es r)
    (hrunning : (r k).sender.phase.running = true) (hstuck : ∀ i, k ≤ i → (r i).sender = (r k).sender) (i : Nat)
    (hi : k ≤ i) : ∃ j, i ≤ j ∧ SenderMove ((r j).given (es j)) (r (j + 1)) ∧
      (r (j + 1)).sender.phase = ((r j).given (es j)).sender.phase := by
  obtain ⟨j, hij, hended | he⟩ := h.sender.1 i
  · rw [hstuck j (hi.trans hij), hrunning] at hended
    cases hended
  · exact ⟨j, hij, senderMove_of_step (h.run j) he,
      congrArg Sender.phase ((hstuck (j + 1) (by omega)).trans (hstuck j (hi.trans hij)).symm)⟩

/-- A write is not refused for ever. -/
theorem FairLoop.not_stuck_writing (h : FairLoop fs es r)
    (hstuck : ∀ i, k ≤ i → (r i).sender = (r k).sender)
    (hph : (r k).sender.phase = .writeOpcode ∨ ∃ m, (r k).sender.phase = .writePayload m) : False := by
  have hrunning : (r k).sender.phase.running = true := by
    obtain hph | ⟨m, hph⟩ := hph <;> rw [hph] <;> rfl
  have hrefused {j : Nat} (hj : k ≤ j) (hm : SenderMove ((r j).given (es j)) (r (j + 1)))
      (hphase : (r (j + 1)).sender.phase = ((r j).given (es j)).sender.phase) : es j = .hostTx (.accepted 0) := by
    obtain ⟨-, hp⟩ | ⟨wake, hph', -⟩ | ⟨hph', -⟩ := hm.of_phase_eq hphase
    · exact hp
    · rw [State.given_sender, hstuck j hj] at hph'
      obtain hph | ⟨m, hph⟩ := hph <;> simp [hph] at hph'
    · rw [State.given_sender, hstuck j hj] at hph'
      obtain hph | ⟨m, hph⟩ := hph <;> simp [hph] at hph'
  have hoffers (i : Nat) (hi : k ≤ i) : ∃ j o, i ≤ j ∧ es j = .hostTx o := by
    obtain ⟨j, hij, hm, hphase⟩ := h.exists_move hrunning hstuck i hi
    exact ⟨j, _, hij, hrefused (hi.trans hij) hm hphase⟩
  obtain ⟨i, n, hi, he⟩ := h.hostTx k hoffers
  have hm := senderMove_of_step (h.run i) (by rw [State.given_pending, he]; rfl)
  have hzero := hrefused hi hm (congrArg Sender.phase ((hstuck (i + 1) (by omega)).trans (hstuck i hi).symm))
  simp [he] at hzero

/-- A delay passes. -/
theorem FairLoop.not_stuck_delaying {wake : Nat} (h : FairLoop fs es r)
    (hstuck : ∀ i, k ≤ i → (r i).sender = (r k).sender)
    (hph : (r k).sender.phase = .guardDelay wake ∨ (r k).sender.phase = .pacingSleep wake) : False := by
  have hrunning : (r k).sender.phase.running = true := by
    obtain hph | hph := hph <;> rw [hph] <;> rfl
  obtain ⟨late, hlate⟩ := h.sender.2 wake
  obtain ⟨j, hj, hm, hphase⟩ := h.exists_move hrunning hstuck (max k late) (le_max_left k late)
  have hnow : wake ≤ (r j).now := hlate.trans (h.run.now_mono ((le_max_right k late).trans hj))
  have hsame := hstuck j ((le_max_left k late).trans hj)
  obtain ⟨hph', -⟩ | ⟨wake', hph', hw⟩ | ⟨hph', -⟩ := hm.of_phase_eq hphase
  · rw [State.given_sender, hsame] at hph'
    obtain hph | hph := hph <;> simp [hph] at hph'
  · rw [State.given_sender, hsame] at hph'
    rw [State.given_now] at hw
    obtain rfl : wake = wake' := by
      obtain hph | hph := hph <;> simpa [hph] using hph'
    omega
  · rw [State.given_sender, hsame] at hph'
    obtain hph | hph := hph <;> simp [hph] at hph'

/-- A read of bytes in `Idle` where a FullData begins dispatches it. -/
theorem ReceiverMove.recv_of_idle_data {b : Byte} {bs q : List Byte} (hm : ReceiverMove s t)
    (hst : s.dfc.st = .idle) (hq : s.h2d = Config.opFullData :: q) (hp : s.pending = .rx (.data (b :: bs))) :
    t.dfc.st = .recv := by
  cases hm with
  | idleFulldata => rfl
  | idleCommack _ _ hb => simp [hq] at hb
  | idleInvalid c _ _ hb hfull => exact absurd (by simpa [hq] using hb) hfull
  | _ => simp_all

/-- DFC acknowledges the frame that the Sender waits for. -/
theorem FairLoop.exists_ack_queued (h : FairLoop fs es r)
    (hawait : ∀ i, k ≤ i → (r i).sender.phase = .awaitAck) : ∃ i, k ≤ i ∧ (r i).d2h ≠ [] := by
  by_contra hnone
  have hempty (i : Nat) (hi : k ≤ i) : (r i).d2h = [] := by_contra fun hne => hnone ⟨i, hi, hne⟩
  have hnomsg (i : Nat) (hi : k ≤ i) : ¬ InMessage (r i) := by
    intro hmsg
    obtain ⟨j, hj, hack⟩ := h.exists_ackAccepted hmsg
    have hd2h := hempty (j + 1) (by omega)
    rw [eq_acknowledged_of_ackAccepted hack (h.run j)] at hd2h
    simp [State.acknowledged] at hd2h
  have hidle (i : Nat) (hi : k ≤ i) : (r i).dfc.st = .idle ∧ ∃ q, (r i).h2d = Config.opFullData :: q := by
    obtain ⟨⟨-, -, hfs, hlink⟩, hrunning, -⟩ := h.course i
    simp only [hawait i hi] at hlink
    obtain ⟨hin, hawaiting⟩ := hlink
    cases hst : (r i).dfc.st with
    | halted => exact absurd hst hrunning
    | idle =>
      obtain ⟨hq, -⟩ | ⟨-, hd2h, -⟩ := (awaitingLink_of_idle fs hst).1 hawaiting
      · exact ⟨rfl, _, hq⟩
      · simp [hempty i hi] at hd2h
    | recv =>
      obtain ⟨hn, hq, -⟩ := (awaitingLink_of_recv fs hst).1 hawaiting
      refine absurd (.inl ⟨hst, hn, ?_⟩) (hnomsg i hi)
      rw [hq, List.length_drop, hin.length_payload hfs]
    | applying => exact absurd (.inr (.inl hst)) (hnomsg i hi)
    | acking => exact absurd (.inr (.inr hst)) (hnomsg i hi)
  have hpolls (i : Nat) (hi : k ≤ i) : ∃ j o, i ≤ j ∧ es j = .rx o := by
    obtain ⟨j, hij, hm⟩ := h.exists_receiverMove (fun i hi => by simp [(hidle i hi).1]) i hi
    obtain ⟨o, ho⟩ := hm.exists_rx (.inl (hidle j (hi.trans hij)).1)
    exact ⟨j, o, hij, ho⟩
  have hqueued (i : Nat) (hi : k ≤ i) : (r i).h2d ≠ [] := by
    obtain ⟨-, q, hq⟩ := hidle i hi
    simp [hq]
  obtain ⟨i, b, bs, hi, he⟩ := h.rx k hqueued hpolls
  obtain ⟨hst, q, hq⟩ := hidle i hi
  have hrecv := (h.run.receiverMove (k := i) (by rw [he]; rfl)).recv_of_idle_data hst hq he
  simp [(hidle (i + 1) (by omega)).1] at hrecv

/-- An ack is read in the end. -/
theorem FairLoop.not_stuck_awaiting (h : FairLoop fs es r) (hstuck : ∀ i, k ≤ i → (r i).sender = (r k).sender)
    (hph : (r k).sender.phase = .awaitAck) : False := by
  have hawait (i : Nat) (hi : k ≤ i) : (r i).sender.phase = .awaitAck := by rw [hstuck i hi, hph]
  have hpoll {j : Nat} (hj : k ≤ j) (hm : SenderMove ((r j).given (es j)) (r (j + 1))) :
      es j = .hostRx .noData ∨ es j = .hostRx (.data []) := by
    have hphase : (r (j + 1)).sender.phase = (r j).sender.phase := by
      rw [hawait j hj, hawait (j + 1) (by omega)]
    obtain ⟨hph', -⟩ | ⟨wake, hph', -⟩ | ⟨-, hp⟩ := hm.of_phase_eq hphase
    · simp [hawait j hj] at hph'
    · simp [hawait j hj] at hph'
    · exact hp
  obtain ⟨n, hn, hack⟩ := h.exists_ack_queued hawait
  have hqueued (i : Nat) (hi : n ≤ i) : (r i).d2h ≠ [] := by
    induction i, hi using Nat.le_induction with
    | base => exact hack
    | succ i hi ih =>
      refine d2h_ne_nil_of_phase_eq (h.run i) ?_ ih
      rw [State.given_sender, hawait i (by omega), hawait (i + 1) (by omega)]
  have hpolls (i : Nat) (hi : n ≤ i) : ∃ j o, i ≤ j ∧ es j = .hostRx o := by
    obtain ⟨j, hij, hm, -⟩ := h.exists_move (by rw [hph]; rfl) hstuck i (hn.trans hi)
    obtain he | he := hpoll (by omega) hm
    · exact ⟨j, _, hij, he⟩
    · exact ⟨j, _, hij, he⟩
  obtain ⟨i, b, bs, hi, he⟩ := h.hostRx n hqueued hpolls
  have hm := senderMove_of_step (h.run i) (by rw [State.given_pending, he]; rfl)
  obtain he' | he' := hpoll (hn.trans hi) hm <;> simp [he] at he'

/-- A Sender that stands still for ever is done. -/
theorem FairLoop.done_of_stuck (h : FairLoop fs es r) (hstuck : ∀ i, k ≤ i → (r i).sender = (r k).sender) :
    (r k).sender.phase = .done := by
  by_contra hdone
  have hrunning : (r k).sender.phase.running = true := by
    have hfailed := (h.course k).notFailed
    cases hph : (r k).sender.phase <;> simp_all [Phase.running]
  obtain ⟨j, hj, hm, hphase⟩ := h.exists_move hrunning hstuck k le_rfl
  obtain ⟨hph, -⟩ | ⟨wake, hph, -⟩ | ⟨hph, -⟩ := hm.of_phase_eq hphase <;>
    rw [State.given_sender, hstuck j hj] at hph
  · exact h.not_stuck_writing hstuck hph
  · exact h.not_stuck_delaying hstuck hph
  · exact h.not_stuck_awaiting hstuck hph

/-- A Sender that never comes closer to `Done` stands still. -/
theorem FairLoop.stuck_of_not_closer (h : FairLoop fs es r)
    (hcloser : ∀ i, k ≤ i → senderRank fs (r k) ≤ senderRank fs (r i)) (i : Nat) (hi : k ≤ i) :
    (r i).sender = (r k).sender := by
  induction i, hi using Nat.le_induction with
  | base => rfl
  | succ i hi hsame =>
    have hrank : senderRank fs ((r i).given (es i)) = senderRank fs (r k) :=
      senderRank_congr ((h.run.cfg_eq i).trans (h.run.cfg_eq k).symm) hsame
    by_cases hm : SenderMove ((r i).given (es i)) (r (i + 1))
    · obtain heq | hlt := hm.closer ((h.course i).given (es i)) (h.hostCalm i)
      · exact heq.trans hsame
      · exact absurd (hcloser (i + 1) (by omega)) (by omega)
    · exact (step_sender_source_eq (h.run i) hm).1.trans hsame

/-- The Sender is done in the end. -/
theorem FairLoop.exists_done (h : FairLoop fs es r) (k : Nat) : ∃ i, (r i).sender.phase = .done := by
  induction hrank : senderRank fs (r k) using Nat.strong_induction_on generalizing k with
  | _ rank ih =>
    subst hrank
    by_cases hcloser : ∃ i, k ≤ i ∧ senderRank fs (r i) < senderRank fs (r k)
    · obtain ⟨i, -, hlt⟩ := hcloser
      exact ih _ hlt i rfl
    · have hnot (i : Nat) (hi : k ≤ i) : senderRank fs (r k) ≤ senderRank fs (r i) :=
        not_lt.1 fun hlt => hcloser ⟨i, hi, hlt⟩
      exact ⟨k, h.done_of_stuck (h.stuck_of_not_closer hnot)⟩

end

/-- Settles O50: when the Sender is done, a loop on course has ended well with all frames accepted. -/
theorem fairClosedLoopDeliversEveryFrame : Obligations.FairClosedLoopDeliversEveryFrame := by
  intro es r fs hrun hfair hrx htx hhostrx hhosttx hsfair hno hdl hF hhost hfs hdfc htrace hh2d hd2h hsender hsource
  have hstart : OnCourse fs (r 0) :=
    ⟨linkStartsInStep (r 0) fs hF hhost hfs hdfc htrace hh2d hd2h hsender hsource, by simp [hdfc, Dfc.reset],
      by simp [hsender, Sender.start], hdl⟩
  have hcalm (k : Nat) : (es k).fatal = false ∧ es k ≠ .rst := by
    obtain ⟨hfatal, -, hstray⟩ := hno k
    exact ⟨hfatal, fun hrst => by simp [hrst, Event.stray] at hstray⟩
  have hhostcalm (k : Nat) : (es k).hostFatal = false := by
    obtain ⟨-, hhostfatal, -⟩ := hno k
    exact hhostfatal
  have h : FairLoop fs es r :=
    ⟨⟨hrun, hfair, hrx, htx, hcalm⟩, hhostrx, hhosttx, hsfair, hhostcalm, hrun.onCourse hno hstart⟩
  obtain ⟨k, hdone⟩ := h.exists_done 0
  obtain ⟨⟨-, -, -, hlink⟩, hrunning, -⟩ := h.course k
  simp only [hdone] at hlink
  obtain ⟨⟨hempty, hhalted | ⟨hst, hq⟩⟩, happlied⟩ := hlink
  · exact absurd hhalted hrunning
  · exact ⟨k, ⟨hdone, hq, hempty, hst⟩, happlied⟩

end Sys2Proof.Machine
end
